-- ==== Sys2Proof/Word.lean ====
section
/-! DEFINITION. The word types of the block and nothing else (00_scope.md R9, 10_state.md R20, R24). -/

namespace Sys2Proof

/-- `u64`: a state word, a seed, an output (R9). -/
abbrev Word := BitVec 64

/-- `u32`: the primitive output of variant 3 (R9). -/
abbrev Half := BitVec 32

/-- `u128`: a 128-bit constant or the state of variants 0 and 4 (R9, R22). -/
abbrev Wide := BitVec 128

/-- A command word of format C80 (30_encoding.md R72). -/
abbrev CmdWord := BitVec 80

/-- `LFIB_K`, the length of the lag table (46_remaining.md R198, decision D27). -/
abbrev lfibK : Nat := 64

/-- A cursor of variant 7: "an integer in `0 .. LFIB_K-1`" (10_state.md R24). -/
abbrev Cursor := Fin lfibK

end Sys2Proof
end

