-- ==== Sys2Proof/Syntax.lean ====
section
/-! DEFINITION. The eight commands of 30_encoding.md R74, one constructor per row of spec/opcode_table.json. -/

namespace Sys2Proof

/-- A command of the block. `idx` is "an unsigned 7-bit integer" (R73); that it fits is checked by `Instr.wf`. -/
inductive Instr where
  /-- `SEED arg` (40_common_interface.md R102). -/
  | seed (arg : Word)
  /-- `NEXT_U64` (R104). -/
  | nextU64
  /-- `NEXT_I63` (R105). -/
  | nextI63
  /-- `NEXT_U32` (R106). -/
  | nextU32
  /-- `JUMP` (44_jump_unit.md R161). -/
  | jump
  /-- `LONG_JUMP` (R164). -/
  | longJump
  /-- `LOAD_STATE idx, arg` (40_common_interface.md R107). -/
  | loadState (idx : Nat) (arg : Word)
  /-- `READ_STATE idx` (R108). -/
  | readState (idx : Nat)
deriving DecidableEq, Repr

/-- The row of the opcode map a command belongs to (R74), without operands. -/
inductive Opcode where
  | seed | nextU64 | nextI63 | nextU32 | jump | longJump | loadState | readState
deriving DecidableEq, Repr

/-- The row of a command. -/
def Instr.opcode : Instr → Opcode
  | .seed _ => .seed
  | .nextU64 => .nextU64
  | .nextI63 => .nextI63
  | .nextU32 => .nextU32
  | .jump => .jump
  | .longJump => .longJump
  | .loadState _ _ => .loadState
  | .readState _ => .readState

end Sys2Proof
end

