-- ==== Sys2Proof/WellFormed.lean ====
section
/-! DEFINITION. Which terms of `Instr` are commands: the state index must fit its 7-bit field (30_encoding.md R72, R73).
Log entry 17. -/

namespace Sys2Proof

/-- `idx` fits the field `cmd[70:64]` (R72). -/
def idxFits (idx : Nat) : Bool := decide (idx < 128)

/-- A well-formed command. Operands held as bit vectors fit by their type. -/
def Instr.wf : Instr → Bool
  | .seed _ => true
  | .nextU64 => true
  | .nextI63 => true
  | .nextU32 => true
  | .jump => true
  | .longJump => true
  | .loadState idx _ => idxFits idx
  | .readState idx => idxFits idx

end Sys2Proof
end

