-- ==== Sys2Proof/Decode.lean ====
section
/-! DEFINITION. The decoder and the encoder of format C80 (30_encoding.md R72 to R76), total on all 2^80 words, and the
opcode map as the spec's table of masks and matches (R74). -/

namespace Sys2Proof

/-- `op = cmd[79:76]` (R72). -/
def fieldOp (w : CmdWord) : BitVec 4 := w.extractLsb' 76 4

/-- `rsv = cmd[75:71]`; must be zero (R72). -/
def fieldRsv (w : CmdWord) : BitVec 5 := w.extractLsb' 71 5

/-- `idx = cmd[70:64]` (R72). -/
def fieldIdx (w : CmdWord) : BitVec 7 := w.extractLsb' 64 7

/-- `arg = cmd[63:0]` (R72). -/
def fieldArg (w : CmdWord) : Word := w.extractLsb' 0 64

/-- Why a word is illegal (R76, 60_exceptions.md R222). All four are reported to the host as ILLEGAL_OP; the names are the
model's. -/
inductive Illegal where
  /-- `op` is `0x0` or `0x9` to `0xF`. -/
  | undefinedOp
  /-- `rsv` is not zero. -/
  | reservedNotZero
  /-- `idx` is not zero in a command that takes none. -/
  | idxNotZero
  /-- `arg` is not zero in a command that takes none. -/
  | argNotZero
deriving DecidableEq, Repr

/-- The must-be-zero test of an unused `idx` (R72). -/
def requireNoIdx (w : CmdWord) (rest : Except Illegal Instr) : Except Illegal Instr :=
  if fieldIdx w = 0 then rest else .error .idxNotZero

/-- The must-be-zero test of an unused `arg` (R72). -/
def requireNoArg (w : CmdWord) (rest : Except Illegal Instr) : Except Illegal Instr :=
  if fieldArg w = 0 then rest else .error .argNotZero

/-- A command without operands. -/
def bare (w : CmdWord) (i : Instr) : Except Illegal Instr :=
  requireNoIdx w (requireNoArg w (.ok i))

/-- The opcode map (R74), read by field. -/
def decodeOp (w : CmdWord) : Except Illegal Instr :=
  match (fieldOp w).toNat with
  | 1 => requireNoIdx w (.ok (.seed (fieldArg w)))
  | 2 => bare w .nextU64
  | 3 => bare w .nextI63
  | 4 => bare w .nextU32
  | 5 => bare w .jump
  | 6 => bare w .longJump
  | 7 => .ok (.loadState (fieldIdx w).toNat (fieldArg w))
  | 8 => requireNoArg w (.ok (.readState (fieldIdx w).toNat))
  | _ => .error .undefinedOp

/-- The decoder (R74, R76): total, each word has exactly one outcome. -/
def decode (w : CmdWord) : Except Illegal Instr :=
  if fieldRsv w = 0 then decodeOp w else .error .reservedNotZero

/-- A command word from its fields, `rsv` zero (R72). -/
def assembleWord (op : BitVec 4) (idx : BitVec 7) (arg : Word) : CmdWord :=
  op ++ (0 : BitVec 5) ++ idx ++ arg

/-- The operation code of a row (R74). -/
def Opcode.code : Opcode → BitVec 4
  | .seed => 1
  | .nextU64 => 2
  | .nextI63 => 3
  | .nextU32 => 4
  | .jump => 5
  | .longJump => 6
  | .loadState => 7
  | .readState => 8

/-- The `idx` field of a command; zero where it is unused (R72). -/
def Instr.idxField : Instr → BitVec 7
  | .seed _ => 0
  | .nextU64 => 0
  | .nextI63 => 0
  | .nextU32 => 0
  | .jump => 0
  | .longJump => 0
  | .loadState idx _ => BitVec.ofNat 7 idx
  | .readState idx => BitVec.ofNat 7 idx

/-- The `arg` field of a command; zero where it is unused (R72). -/
def Instr.argField : Instr → Word
  | .seed arg => arg
  | .nextU64 => 0
  | .nextI63 => 0
  | .nextU32 => 0
  | .jump => 0
  | .longJump => 0
  | .loadState _ arg => arg
  | .readState _ => 0

/-- The encoder: the word of a well-formed command (R72, R74). -/
def encode (i : Instr) : CmdWord :=
  assembleWord i.opcode.code i.idxField i.argField

/-- One row of the opcode map as R74 prints it. -/
structure OpcodeRow where
  opcode : Opcode
  pattern : CmdWord
  mask : CmdWord
deriving DecidableEq, Repr

/-- The opcode map of R74, in its order, match and mask as printed there. -/
def opcodeRows : List OpcodeRow :=
  [ ⟨.seed,      0x10000000000000000000, 0xFFFF0000000000000000⟩,
    ⟨.nextU64,   0x20000000000000000000, 0xFFFFFFFFFFFFFFFFFFFF⟩,
    ⟨.nextI63,   0x30000000000000000000, 0xFFFFFFFFFFFFFFFFFFFF⟩,
    ⟨.nextU32,   0x40000000000000000000, 0xFFFFFFFFFFFFFFFFFFFF⟩,
    ⟨.jump,      0x50000000000000000000, 0xFFFFFFFFFFFFFFFFFFFF⟩,
    ⟨.longJump,  0x60000000000000000000, 0xFFFFFFFFFFFFFFFFFFFF⟩,
    ⟨.loadState, 0x70000000000000000000, 0xFF800000000000000000⟩,
    ⟨.readState, 0x80000000000000000000, 0xFF80FFFFFFFFFFFFFFFF⟩ ]

/-- A word selects a row when `(w & mask) == match` (R74). -/
def OpcodeRow.selects (r : OpcodeRow) (w : CmdWord) : Bool :=
  w &&& r.mask == r.pattern

/-- The 80-bit command word whose low `nbits` bits are those of `w` and whose other bits are zero; none where `w` has a bit
that format C80 has no place for. -/
def tableWord (nbits w : Nat) : Option CmdWord :=
  let v := w % 2 ^ nbits
  if v < 2 ^ 80 then some (BitVec.ofNat 80 v) else none

/-- What the decoder reads from a command numbered as spec/opcode_table.json numbers it: one 80-bit word, bit 0 the least
significant. -/
def decodeTableWord (nbits w : Nat) : Option Instr :=
  match tableWord nbits w with
  | none => none
  | some c =>
    match decode c with
    | .ok i => some i
    | .error _ => none

end Sys2Proof
end

