-- ==== Sys2Proof/Machine/Flags.lean ====
section
/-! DEFINITION. The arithmetic primitives of 00_scope.md R10 to R14. The block has no flags (10_state.md R29): the carry of
`add64c` is a local inside one transition, and nothing else is computed beside a result. Wrap-around `+`, `-`, `*`, the
shifts and the bitwise operators are those of `BitVec` (R10, R14). -/

namespace Sys2Proof.Machine

/-- The 64-bit value of a carry. -/
def carryWord (c : Bool) : Word := if c then 1 else 0

/-- `mul64x64(a, b) -> (hi, lo)`: the exact product, split (R11). -/
def mul64x64 (a b : Word) : Word × Word :=
  let p := a.toNat * b.toNat
  (BitVec.ofNat 64 (p / 2 ^ 64), BitVec.ofNat 64 p)

/-- `add64c(a, b, cin) -> (sum, carry)`: the exact sum with a 1-bit carry in (R12). -/
def add64c3 (a b : Word) (cin : Bool) : Word × Bool :=
  let t := a.toNat + b.toNat + (carryWord cin).toNat
  (BitVec.ofNat 64 t, decide (2 ^ 64 ≤ t))

/-- `add64c(a, b) -> (sum, carry)` (R12). -/
def add64c (a b : Word) : Word × Bool := add64c3 a b false

/-- `rotl64(x, k)`, `0 <= k <= 63` (R13). The case `k = 0` is apart, so that no shift by the width is evaluated. -/
def rotl64 (x : Word) (k : Nat) : Word :=
  if k = 0 then x else (x <<< k) ||| (x >>> (64 - k))

/-- `rotr64(x, k) = rotl64(x, (64 - k) mod 64)`, `0 <= k <= 63` (R13). -/
def rotr64 (x : Word) (k : Nat) : Word := rotl64 x ((64 - k) % 64)

/-- `rotr32(x, k)`, `0 <= k <= 31` (R13). -/
def rotr32 (x : Half) (k : Nat) : Half :=
  if k = 0 then x else (x >>> k) ||| (x <<< (32 - k))

/-- `trunc32(x) = x[31:0]` (R14). -/
def trunc32 (x : Word) : Half := x.setWidth 32

/-- `zext_64(v)` of a 32-bit value (R14). -/
def zext64 (v : Half) : Word := v.setWidth 64

/-- `{hi, lo} = hi * 2^64 + lo` (R9, 10_state.md R22). -/
def wide (hi lo : Word) : Wide := hi ++ lo

/-- The high half of a 128-bit value. -/
def wideHi (v : Wide) : Word := v.extractLsb' 64 64

/-- The low half of a 128-bit value. -/
def wideLo (v : Wide) : Word := v.extractLsb' 0 64

end Sys2Proof.Machine
end

