-- ==== Sys2Proof/Config.lean ====
section
/-! DEFINITION. What is fixed when an instance is built: the parameters of 00_scope.md R8 and
93_implementation_defined.md Part B, as plain data, and the functions the spec leaves OPEN, as constants with no body.

No claim about a concrete value of an OPEN parameter can be made without naming it (R8): a statement that quantifies over
`Build` holds for every one. Log entries 1, 8, 9, 10. -/

namespace Sys2Proof

/-- The ten variants, in the order of their numbers 0 to 9 (00_scope.md R2). -/
inductive Variant where
  | lcg128 | splitmix | rsx256 | pcg32 | pcg64 | msws | romu | lfib | mwc | sfc
deriving DecidableEq, Repr

/-- `LCG128_SEED_MODE` (41_lcg128.md R132); decided `loSeed` (D7). -/
inductive LcgSeedMode where
  | loSeed | hiSeedLoOne
deriving DecidableEq, Repr

/-- `PCG64_OUT_FROM` (45_pcg.md R178): OPEN. -/
inductive OutFrom where
  | new | old
deriving DecidableEq, Repr

/-- `ROMU_KIND` (46_remaining.md R192): OPEN. -/
inductive RomuKind where
  | quad | trio | duo | duoJr
deriving DecidableEq, Repr

/-- `PCG64_OUT` (45_pcg.md R177, R179): the reference XSL-RR, or some other total function, named by a number. -/
inductive Pcg64Out where
  | xslRr
  | other (id : Nat)
deriving DecidableEq, Repr

/-- `PCG64_SEEDFN` (45_pcg.md R180): the reference seeding, or some other total function, named by a number. -/
inductive Pcg64SeedFn where
  | reference
  | other (id : Nat)
deriving DecidableEq, Repr

/-- `LFIB_OP` (46_remaining.md R195, 93_implementation_defined.md Part B), OPEN: the reference multiplication modulo 2^64
(R196), or some other total function, named by a number. -/
inductive LfibOp where
  | mul
  | other (id : Nat)
deriving DecidableEq, Repr

/-- The output function of variant 7 (R195, Part B), OPEN: how the output is taken from the new value, the reference being the
new entry itself (R196), or some other total function, named by a number. -/
inductive LfibOut where
  | newEntry
  | other (id : Nat)
deriving DecidableEq, Repr

/-- `NW(v)`, `SEEDFN_v` and `STEPFN_v` of variants 5 to 9 (46_remaining.md R185 to R188): the spec's reference
instantiation, or some other triple with `nw` state words, its functions named by a number. Variant 7 has 64 words and two
cursors in both cases (R186 item 1), so `nw` is not read there. -/
inductive Algorithm where
  | reference
  | other (nw : Nat) (id : Nat)
deriving DecidableEq, Repr

/-- The build-time parameters of one instance (00_scope.md R5, R8). No command and no reset changes them (10_state.md R20,
R41). -/
structure Build where
  /-- `VARIANT` (R2, R5). -/
  variant : Variant
  /-- `LCG128_M` (R134), OPEN. -/
  lcgM : Wide
  /-- `LCG128_A` (R134), OPEN. -/
  lcgA : Wide
  /-- `LCG128_SEED_MODE` (R132). -/
  lcgSeedMode : LcgSeedMode
  /-- `PCG32_SEED_DISCARD`, 0 or 1 (R173). -/
  pcg32SeedDiscard : Fin 2
  /-- `PCG64_M` (R177), OPEN. -/
  pcg64M : Wide
  /-- `PCG64_A` (R177), OPEN. -/
  pcg64A : Wide
  /-- `PCG64_OUT` (R178), OPEN. -/
  pcg64Out : Pcg64Out
  /-- `PCG64_OUT_FROM` (R178), OPEN. -/
  pcg64OutFrom : OutFrom
  /-- `PCG64_SEEDFN` (R180), OPEN. -/
  pcg64SeedFn : Pcg64SeedFn
  /-- `SEEDFN_v`, `STEPFN_v`, `NW(v)` of variants 5 to 9 (R186), OPEN. -/
  algorithm : Algorithm
  /-- `ROMU_KIND` of the reference of variant 6 (R193), OPEN. -/
  romuKind : RomuKind
  /-- `LFIB_D` of the reference of variant 7 (R196), OPEN, `0 <= LFIB_D < LFIB_K`. -/
  lfibD : Cursor
  /-- `LFIB_OP` of the ring of variant 7 (R195), OPEN. -/
  lfibOp : LfibOp
  /-- The output function of the ring of variant 7 (R195), OPEN. -/
  lfibOut : LfibOut
deriving DecidableEq, Repr

/-- The constraints a model may assume of the OPEN parameters (93_implementation_defined.md Part B): `LCG128_M` is odd
(R134), and `1 <= NW(v) <= 15` for variants 5, 6, 8 and 9 (R186 item 1). -/
def Build.wf (b : Build) : Bool :=
  b.lcgM.getLsbD 0 &&
    match b.algorithm with
    | .reference => true
    | .other nw _ => decide (1 ≤ nw) && decide (nw ≤ 15)

namespace Config

/-- `PCG64_OUT` number `id` when it is not the reference: "a total function `(u64, u64) -> u64`; nothing else is known of
it" (45_pcg.md R178). Free. -/
opaque freePcg64Out (id : Nat) (hi lo : Word) : Word

/-- `PCG64_SEEDFN` number `id` when it is not the reference (R180): seed to `(hi, lo)`. Free. -/
opaque freePcg64Seed (id : Nat) (seed : Word) : Word × Word

/-- `LFIB_OP` number `id` when it is not the reference (46_remaining.md R195): from the two entries at the cursors to the new
value. Free. -/
opaque freeLfibOp (id : Nat) (x y : Word) : Word

/-- The output function number `id` of variant 7 when it is not the reference (R195): from the new value to the output.
Free. -/
opaque freeLfibOut (id : Nat) (v : Word) : Word

/-- `STEPFN_v` number `id` of variants 5 to 9 when it is not the reference (46_remaining.md R186 item 2): from the words and
the cursors to the new word at each index, the new cursor at each index, and the output. Free. -/
opaque freeStep (v : Variant) (id : Nat) (words : List Word) (cursors : List Cursor) :
    (Nat → Word) × (Nat → Cursor) × Word

/-- `SEEDFN_v` number `id` of variants 5 to 9 when it is not the reference (R186 item 4): from the seed to the word and the
cursor at each index. Free. -/
opaque freeSeed (v : Variant) (id : Nat) (seed : Word) : (Nat → Word) × (Nat → Cursor)

end Config

end Sys2Proof
end

