-- ==== Sys2Proof/Machine/Params.lean ====
section
/-! DEFINITION. The algorithm constants of 00_scope.md R8 with the value the spec takes, the reference values of the OPEN
parameters, and the shape of each variant's state block (10_state.md R21). Log entries 2, 9, 11, 12. -/

namespace Sys2Proof.Machine

/-! ## Variant 1 and the SplitMix fill (42_splitmix.md R142) -/

/-- `SM_GAMMA`. -/
def smGamma : Word := 0x9e3779b97f4a7c15
/-- `SM_C1`. -/
def smC1 : Word := 0xbf58476d1ce4e5b9
/-- `SM_C2`. -/
def smC2 : Word := 0x94d049bb133111eb
/-- `SM_SH1`. -/
def smSh1 : Nat := 30
/-- `SM_SH2`. -/
def smSh2 : Nat := 27
/-- `SM_SH3`. -/
def smSh3 : Nat := 31

/-! ## Variant 2 and its jump unit (43_rsx256.md R153, 44_jump_unit.md R163) -/

/-- `RSX_MUL1`. -/
def rsxMul1 : Word := 5
/-- `RSX_ROTO`. -/
def rsxRotO : Nat := 7
/-- `RSX_MUL2`. -/
def rsxMul2 : Word := 9
/-- `RSX_SHIFT`. -/
def rsxShift : Nat := 17
/-- `RSX_ROT`. -/
def rsxRot : Nat := 45

/-- `JUMP_POLY[0..3]` (R163). -/
def jumpPoly : List Word :=
  [0x180ec6d33cfd0aba, 0xd5a61266f0c9392c, 0xa9582618e03fc9aa, 0x39abdc4529b1661c]

/-- `LONG_JUMP_POLY[0..3]` (R163). -/
def longJumpPoly : List Word :=
  [0x76e15d3efefdcbbf, 0xc5004e441c522fb3, 0x77710069854ee241, 0x39109bb02acbe635]

/-! ## Variant 3 (45_pcg.md R172) -/

/-- `PCG32_M`. -/
def pcg32M : Word := 0x5851f42d4c957f2d
/-- `PCG32_A`. -/
def pcg32A : Word := 0x14057b7ef767814f

/-! ## Constants of the reference instantiations of variants 5, 6, 8 (46_remaining.md R190, R193, R200) -/

/-- `MSWS_S1`. -/
def mswsS1 : Word := 0xb5ad4eceda1ce2a9
/-- `MSWS_S2`. -/
def mswsS2 : Word := 0x278c5a4d8419fe6b
/-- `ROMU_M`. -/
def romuM : Word := 0xd3833e804f4c574b
/-- `MWC_A`. -/
def mwcA : Word := 0xffebb71d94fcdaf9
/-- The number of warm-up steps of the reference `SEEDFN_9` (R204). -/
def sfcWarmUp : Nat := 12

/-! ## Reference values of the OPEN parameters -/

/-- The reference `LCG128_M` and `PCG64_M` (41_lcg128.md R134, 45_pcg.md R179). -/
def referenceM : Wide := 0x2360ed051fc65da44385df649fccf645
/-- The reference `LCG128_A` and `PCG64_A` (R134, R179). -/
def referenceA : Wide := 0x5851f42d4c957f2d14057b7ef767814f
/-- The reference `LFIB_D` (46_remaining.md R196). -/
def referenceLfibD : Cursor := 31

/-- An instance of variant `v` with every decided parameter at its decided value and every OPEN parameter at the reference
the spec offers "so that the model can run" (R8). -/
def referenceBuild (v : Variant) : Build where
  variant := v
  lcgM := referenceM
  lcgA := referenceA
  lcgSeedMode := .loSeed
  pcg32SeedDiscard := 1
  pcg64M := referenceM
  pcg64A := referenceA
  pcg64Out := .xslRr
  pcg64OutFrom := .new
  pcg64SeedFn := .reference
  algorithm := .reference
  romuKind := .trio
  lfibD := referenceLfibD
  lfibOp := .mul
  lfibOut := .newEntry

/-! ## Shape of the state block (10_state.md R21) and the index space (20_memory.md R51) -/

/-- The number of words of the reference of variant 6, by kind (46_remaining.md R193). -/
def romuWords : RomuKind → Nat
  | .quad => 4
  | .trio => 3
  | .duo => 2
  | .duoJr => 2

/-- The word count of an algorithm of variants 5, 6, 8, 9, given that of the reference (R25, R186 item 1). -/
def algorithmWords (a : Algorithm) (reference : Nat) : Nat :=
  match a with
  | .reference => reference
  | .other nw _ => nw

/-- `NW(v)`, the number of 64-bit state words (R21). -/
def nw (b : Build) : Nat :=
  match b.variant with
  | .lcg128 => 2
  | .splitmix => 1
  | .rsx256 => 4
  | .pcg32 => 1
  | .pcg64 => 2
  | .msws => algorithmWords b.algorithm 4
  | .romu => algorithmWords b.algorithm (romuWords b.romuKind)
  | .lfib => lfibK
  | .mwc => algorithmWords b.algorithm 2
  | .sfc => algorithmWords b.algorithm 4

/-- `NC(v)`, the number of cursors (R21): two on variant 7, none elsewhere. -/
def nc (b : Build) : Nat :=
  match b.variant with
  | .lfib => 2
  | .lcg128 | .splitmix | .rsx256 | .pcg32 | .pcg64 | .msws | .romu | .mwc | .sfc => 0

/-- `NIDX(v) = NW(v) + NC(v)` (R21, R51). -/
def nidx (b : Build) : Nat := nw b + nc b

/-- `HAS_U32(v)`: variant 3 only (40_common_interface.md R106). -/
def hasU32 (b : Build) : Bool := b.variant == .pcg32

/-- `HAS_JUMP(v)`: variant 2 only (44_jump_unit.md R160). -/
def hasJump (b : Build) : Bool := b.variant == .rsx256

/-- The number of a variant, shown on `variant_id[3:0]` (00_scope.md R2, 30_encoding.md R70). -/
def variantNumber : Variant → BitVec 4
  | .lcg128 => 0
  | .splitmix => 1
  | .rsx256 => 2
  | .pcg32 => 3
  | .pcg64 => 4
  | .msws => 5
  | .romu => 6
  | .lfib => 7
  | .mwc => 8
  | .sfc => 9

end Sys2Proof.Machine
end

