-- ==== Sys2Proof/Machine/State.lean ====
section
/-! DEFINITION. The state of one instance, as plain data: the state block (10_state.md R20), the response port (30_encoding.md
R70, R77), what the host is going to do (00_scope.md R6), and the build-time parameters, which never change (R8). No flags,
no program counter, no control register (10_state.md R29 to R31). -/

namespace Sys2Proof.Machine

/-- `rsp_status` (30_encoding.md R78, 60_exceptions.md R221). -/
inductive Status where
  | ok | illegalOp | unsupported | badIndex
deriving DecidableEq, Repr

/-- One response `rsp(status, data)` (R77). -/
structure Response where
  status : Status
  data : Word
deriving DecidableEq, Repr

/-- The state block (10_state.md R20): `S[0] .. S[NW-1]`, and on variant 7 the cursors `CUR[0]`, `CUR[1]`. -/
structure Block where
  words : List Word
  cursors : List Cursor
deriving DecidableEq, Repr

/-- One thing the host does at the ports (00_scope.md R6, 30_encoding.md R70, R71). Log entries 4, 13. -/
inductive HostAction where
  /-- `cmd_valid` low: no command is presented (R71). -/
  | idle
  /-- A command word presented while `cmd_ready` is high and `rst` low: it is accepted (R71). -/
  | command (w : CmdWord)
  /-- A command word presented while `cmd_ready` is low: it is not accepted (70_reset_and_hazards.md R256). -/
  | commandWhileBusy (w : CmdWord)
  /-- `rst` high at a clock edge, with the command word shown at the same time, if any (R250, 60_exceptions.md R239). -/
  | reset (shown : Option CmdWord)
  /-- An accepted command in execution when `rst` is sampled high (R251). -/
  | resetDuring (w : CmdWord)
deriving DecidableEq, Repr

/-- One instance. -/
structure State where
  /-- The model's field: the build-time parameters; `VARIANT` is shown on `variant_id` (10_state.md R31). -/
  build : Build
  /-- The state block (R20). -/
  block : Block
  /-- The model's field: the host actions still to come, next first (R6). -/
  inbox : List HostAction
  /-- The response presented by the last host action; none while `rsp_valid` is low (30_encoding.md R70, R71). -/
  rsp : Option Response
deriving DecidableEq, Repr

/-- Why a step stops with a fault. There is no such reason: "The generator core raises no exception of any kind"
(60_exceptions.md R220), and a command that cannot be executed is answered with a status and changes nothing (R224). Safe:
no step of the model ends so. -/
inductive Fault where
deriving DecidableEq, Repr

/-- Why a step is refused. -/
inductive Refusal where
  /-- Raised by `exec`'s arm of an instruction that has no meaning yet; no arm of this model is one. Safe. -/
  | notModelled (mnemonic : String)
deriving DecidableEq, Repr

/-- The state block after reset: every word and every cursor zero (10_state.md R40, 70_reset_and_hazards.md R250). -/
def resetBlock (b : Build) : Block where
  words := List.replicate (nw b) 0
  cursors := List.replicate (nc b) 0

/-- An instance of build `b` right after reset, the host idle, no response presented (R250, R252). -/
def State.resetOf (b : Build) : State where
  build := b
  block := resetBlock b
  inbox := []
  rsp := none

/-- The machine right after reset. Its build is the model's choice, variant 2 with the decided and the reference parameters
(log entry 2); `State.resetOf` gives every other. -/
def State.reset : State := State.resetOf (referenceBuild .rsx256)

end Sys2Proof.Machine
end

