-- ==== Sys2Proof/Machine/Operands.lean ====
section
/-! DEFINITION. The operand forms of the block: one addressing mode, the state index (20_memory.md R51, R52), and the three
views in which an output is presented (30_encoding.md R77, 40_common_interface.md R104 to R106). Log entry 20. -/

namespace Sys2Proof.Machine

/-- The read `S[i]`. A well-shaped block has every word an algorithm reads; a missing word reads as zero (log entry 20). -/
def Block.word (k : Block) (i : Nat) : Word := k.words.getD i 0

/-- The read `CUR[j]`; a missing cursor reads as zero (log entry 20). -/
def Block.cursor (k : Block) (j : Nat) : Cursor := k.cursors.getD j 0

/-- `arg mod LFIB_K`, the cursor a loaded value is stored as (40_common_interface.md R107, 10_state.md R24). -/
def cursorOfWord (arg : Word) : Cursor := Fin.ofNat lfibK arg.toNat

/-- A cursor zero-extended to 64 bits (R108, 10_state.md R24). -/
def wordOfCursor (c : Cursor) : Word := BitVec.ofNat 64 c.val

/-- What index `idx` of the state index space names, read (R108): a word below `NW`, a cursor from there. -/
def readIndex (b : Build) (k : Block) (idx : Nat) : Word :=
  if idx < nw b then k.word idx else wordOfCursor (k.cursor (idx - nw b))

/-- What index `idx` of the state index space names, written (R107). -/
def writeIndex (b : Build) (k : Block) (idx : Nat) (arg : Word) : Block :=
  if idx < nw b then { k with words := k.words.set idx arg }
  else { k with cursors := k.cursors.set (idx - nw b) (cursorOfWord arg) }

/-- The `u64` view of an output (R104). -/
def viewU64 (out : Word) : Word := out

/-- The `i63` view: a logical shift right by one (R105). -/
def viewI63 (out : Word) : Word := out >>> 1

/-- The `u32` view: zero-extended (R106). -/
def viewU32 (out : Half) : Word := zext64 out

end Sys2Proof.Machine
end

