-- ==== Sys2Proof/Machine/Ops.lean ====
section
/-! DEFINITION. The shared operations of the commands: how one ends (40_common_interface.md R100 step 4, 60_exceptions.md
R224), reset (70_reset_and_hazards.md R250), and the ports as the host sees them (30_encoding.md R70). -/

namespace Sys2Proof.Machine

/-- A response is presented: `rsp(status, data)` (30_encoding.md R77). -/
def respond (status : Status) (data : Word) (s : State) : State :=
  { s with rsp := some { status := status, data := data } }

/-- The command was performed: the new state block and `rsp(OK, data)` (40_common_interface.md R100 step 4). -/
def complete (k : Block) (data : Word) (s : State) : State :=
  respond .ok data { s with block := k }

/-- `raise X`: "rsp(X, 0) ; nothing else" (60_exceptions.md R224). The block's only way of turning a command away; it has no
trap entry and no return (R226, R228). -/
def raise (x : Status) (s : State) : State := respond x 0 s

/-- No response is presented: `rsp_valid` is low (30_encoding.md R71). -/
def noResponse (s : State) : State := { s with rsp := none }

/-- `rst` high at a clock edge (70_reset_and_hazards.md R250): every word and cursor zero, no command accepted, `rsp_valid`
low. The build stays (10_state.md R41). -/
def hardReset (s : State) : State :=
  noResponse { s with block := resetBlock s.build }

/-- The code on `rsp_status[1:0]` (30_encoding.md R78). -/
def statusCode : Status → BitVec 2
  | .ok => 0
  | .illegalOp => 1
  | .unsupported => 2
  | .badIndex => 3

/-- `variant_id[3:0]` (30_encoding.md R70, 10_state.md R31). -/
def State.variantId (s : State) : BitVec 4 := variantNumber s.build.variant

/-- `rsp_valid` (R70). -/
def State.rspValid (s : State) : Bool := s.rsp.isSome

/-- `cmd_ready` between two steps: a command is one atomic step, so none is in execution (R71; log entry 13). -/
def State.cmdReady (_ : State) : Bool := true

end Sys2Proof.Machine
end

