-- ==== Sys2Proof/Machine/Lcg128.lean ====
section
/-! DEFINITION. Variant 0, LCG128 (41_lcg128.md R130 to R133), and the 128-bit multiply-add that variant 4 reuses. -/

namespace Sys2Proof.Machine

/-- `LCG128_UPDATE(hi, lo, M, A) -> (hi', lo')` with 64-bit primitives only, line by line as R131 gives it. -/
def lcg128Update (hi lo : Word) (m a : Wide) : Word × Word :=
  let p := mul64x64 lo (wideLo m)
  let pHi := p.1 + hi * wideLo m + lo * wideHi m
  let l := add64c p.2 (wideLo a)
  (pHi + wideHi a + carryWord l.2, l.1)

/-- A block of two words, `hi` at index 0 and `lo` at index 1 (10_state.md R21). -/
def blockOfPair (p : Word × Word) : Block := { words := [p.1, p.2], cursors := [] }

/-- `SEEDFN_0` in either seed mode (R132). -/
def seedLcg128 (b : Build) (arg : Word) : Block :=
  match b.lcgSeedMode with
  | .loSeed => blockOfPair (0, arg)
  | .hiSeedLoOne => blockOfPair (arg, 1)

/-- `STEPFN_0`: the output is the NEW high word (R133). -/
def stepLcg128 (b : Build) (k : Block) : Block × Word :=
  let s := lcg128Update (k.word 0) (k.word 1) b.lcgM b.lcgA
  (blockOfPair s, s.1)

end Sys2Proof.Machine
end

