-- ==== Sys2Proof/Machine/Pcg.lean ====
section
/-! DEFINITION. Variants 3 and 4, PCG32 and PCG64 (45_pcg.md R170 to R180). -/

namespace Sys2Proof.Machine

/-! ## Variant 3 -/

/-- The output permutation of R171, from the OLD state: the 32-bit intermediate rotated right by the top five bits. -/
def pcg32Out (p : Word) : Half :=
  rotr32 (trunc32 (((p >>> 18) ^^^ p) >>> 27)) (p.extractLsb' 59 5).toNat

/-- The state update of R171. -/
def pcg32Update (p : Word) : Word := p * pcg32M + pcg32A

/-- `STEP32(p) -> (state', out32)` (R171). -/
def step32 (p : Word) : Word × Half := (pcg32Update p, pcg32Out p)

/-- A block of one word. -/
def blockOfWord (w : Word) : Block := { words := [w], cursors := [] }

/-- `n` transitions, outputs dropped (R173). -/
def pcg32Discard : Nat → Word → Word
  | 0, p => p
  | n + 1, p => pcg32Discard n (step32 p).1

/-- `SEEDFN_3`: the seed, then `PCG32_SEED_DISCARD` transitions (R173, conflict C1). -/
def seedPcg32 (b : Build) (arg : Word) : Block := blockOfWord (pcg32Discard b.pcg32SeedDiscard.val arg)

/-- The primitive step of variant 3 on a block: one transition, one 32-bit output (R171, 40_common_interface.md R106). -/
def stepPcg32Half (k : Block) : Block × Half :=
  let r := step32 (k.word 0)
  (blockOfWord r.1, r.2)

/-- `STEPFN_3`: two transitions, the first output in the low half (R175, 20_memory.md R56). -/
def stepPcg32 (k : Block) : Block × Word :=
  let r1 := step32 (k.word 0)
  let r2 := step32 r1.1
  (blockOfWord r2.1, r2.2 ++ r1.2)

/-! ## Variant 4 -/

/-- The reference `PCG64_OUT`, XSL-RR: count the top six bits of the 128-bit state (R179). -/
def pcg64XslRr (h l : Word) : Word := rotr64 (h ^^^ l) (h.extractLsb' 58 6).toNat

/-- `PCG64_OUT` of the build (R178, R179). -/
def pcg64Out (b : Build) (h l : Word) : Word :=
  match b.pcg64Out with
  | .xslRr => pcg64XslRr h l
  | .other id => Config.freePcg64Out id h l

/-- The 128-bit update of variant 4 (R177 a). -/
def pcg64Update (b : Build) (h l : Word) : Word × Word := lcg128Update h l b.pcg64M b.pcg64A

/-- `STEPFN_4` (R178). -/
def stepPcg64 (b : Build) (k : Block) : Block × Word :=
  let s := pcg64Update b (k.word 0) (k.word 1)
  let out :=
    match b.pcg64OutFrom with
    | .new => pcg64Out b s.1 s.2
    | .old => pcg64Out b (k.word 0) (k.word 1)
  (blockOfPair s, out)

/-- `SEEDFN_4`: the reference is the seed in `lo`, then one transition (R180). -/
def seedPcg64 (b : Build) (arg : Word) : Block :=
  match b.pcg64SeedFn with
  | .reference => blockOfPair (pcg64Update b 0 arg)
  | .other id => blockOfPair (Config.freePcg64Seed id arg)

end Sys2Proof.Machine
end

