-- ==== Sys2Proof/Machine/SplitMix.lean ====
section
/-! DEFINITION. Variant 1, SPLITMIX, and the SplitMix fill (42_splitmix.md R140 to R146). -/

namespace Sys2Proof.Machine

/-- The three-round mix of R141; round 3 has no multiply (conflict C2). -/
def smMix (z : Word) : Word :=
  let z1 := (z ^^^ (z >>> smSh1)) * smC1
  let z2 := (z1 ^^^ (z1 >>> smSh2)) * smC2
  z2 ^^^ (z2 >>> smSh3)

/-- `SM_STEP(s) -> (s', out)`: the output is the mix of the incremented state, which itself is not mixed (R141). -/
def smStep (s : Word) : Word × Word :=
  let s' := s + smGamma
  (s', smMix s')

/-- `SMFILL(seed, n)`: the first `n` outputs of the step from `seed` (R146). The argument is `SMT` (10_state.md R28). -/
def smFill (smt : Word) : Nat → List Word
  | 0 => []
  | n + 1 => (smStep smt).2 :: smFill (smStep smt).1 n

/-- A block filled from a seed, no cursors (R146). -/
def blockOfFill (arg : Word) (n : Nat) : Block := { words := smFill arg n, cursors := [] }

/-- `SEEDFN_1` (R143). -/
def seedSplitMix (arg : Word) : Block := { words := [arg], cursors := [] }

/-- `STEPFN_1` (R144). -/
def stepSplitMix (k : Block) : Block × Word :=
  let r := smStep (k.word 0)
  ({ words := [r.1], cursors := [] }, r.2)

end Sys2Proof.Machine
end

