-- ==== Sys2Proof/Machine/Remaining.lean ====
section
/-! DEFINITION. Variants 5 to 9 (46_remaining.md R185 to R204): the spec's reference instantiation of each, and the open
instantiation, whose step and seed functions are free (R186, R188). Log entries 8, 9, 23, 24, 26. -/

namespace Sys2Proof.Machine

/-! ## The open instantiation -/

/-- `STEPFN_v` of an open algorithm: `NW` words and `NC` cursors of free values that depend on the block only (R186). -/
def stepOpen (b : Build) (id : Nat) (k : Block) : Block × Word :=
  let r := Config.freeStep b.variant id k.words k.cursors
  ({ words := (List.range (nw b)).map r.1, cursors := (List.range (nc b)).map r.2.1 }, r.2.2)

/-- `SEEDFN_v` of an open algorithm: depends on the seed only, writes every word and cursor (R186 item 4). -/
def seedOpen (b : Build) (id : Nat) (arg : Word) : Block :=
  let r := Config.freeSeed b.variant id arg
  { words := (List.range (nw b)).map r.1, cursors := (List.range (nc b)).map r.2 }

/-- The build's own choice between the reference and an open step function (R188). -/
def stepChosen (b : Build) (reference : Block → Block × Word) (k : Block) : Block × Word :=
  match b.algorithm with
  | .reference => reference k
  | .other _ id => stepOpen b id k

/-- The build's own choice between the reference and an open seed function (R188). -/
def seedChosen (b : Build) (reference : Word → Block) (arg : Word) : Block :=
  match b.algorithm with
  | .reference => reference arg
  | .other _ id => seedOpen b id arg

/-! ## Variant 5, MSWS -/

/-- Reference `STEPFN_5` (R190): state `x1, w1, x2, w2`. -/
def stepMsws (k : Block) : Block × Word :=
  let w1 := k.word 1 + mswsS1
  let xx := k.word 0 * k.word 0 + w1
  let x1 := rotl64 xx 32
  let w2 := k.word 3 + mswsS2
  let x2 := rotl64 (k.word 2 * k.word 2 + w2) 32
  ({ words := [x1, w1, x2, w2], cursors := [] }, xx ^^^ x2)

/-- Reference `SEEDFN_5` (R191). -/
def seedMsws (arg : Word) : Block := blockOfFill arg 4

/-! ## Variant 6, ROMU -/

/-- Reference `STEPFN_6`, kind QUAD (R193): state `w, x, y, z`. -/
def stepRomuQuad (k : Block) : Block × Word :=
  let wp := k.word 0
  let xp := k.word 1
  let yp := k.word 2
  let zp := k.word 3
  ({ words := [romuM * zp, zp + rotl64 wp 52, yp - xp, rotl64 (yp + wp) 19], cursors := [] }, xp)

/-- Reference `STEPFN_6`, kind TRIO (R193): state `x, y, z`. -/
def stepRomuTrio (k : Block) : Block × Word :=
  let xp := k.word 0
  let yp := k.word 1
  let zp := k.word 2
  ({ words := [romuM * zp, rotl64 (yp - xp) 12, rotl64 (zp - yp) 44], cursors := [] }, xp)

/-- Reference `STEPFN_6`, kind DUO (R193): state `x, y`. -/
def stepRomuDuo (k : Block) : Block × Word :=
  let xp := k.word 0
  let yp := k.word 1
  ({ words := [romuM * yp, rotl64 yp 36 + rotl64 yp 15 - xp], cursors := [] }, xp)

/-- Reference `STEPFN_6`, kind DUOJR (R193): state `x, y`. -/
def stepRomuDuoJr (k : Block) : Block × Word :=
  let xp := k.word 0
  let yp := k.word 1
  ({ words := [romuM * yp, rotl64 (yp - xp) 27], cursors := [] }, xp)

/-- Reference `STEPFN_6` by `ROMU_KIND` (R193). -/
def stepRomu (kind : RomuKind) (k : Block) : Block × Word :=
  match kind with
  | .quad => stepRomuQuad k
  | .trio => stepRomuTrio k
  | .duo => stepRomuDuo k
  | .duoJr => stepRomuDuoJr k

/-- Reference `SEEDFN_6` (R194). -/
def seedRomu (kind : RomuKind) (arg : Word) : Block := blockOfFill arg (romuWords kind)

/-! ## Variant 7, LFIB -/

/-- `LFIB_OP` of the build (R195): the reference multiplies modulo 2^64 (R196). That the default is the multiplication is log
entry 9; the alternative is free, log entry 8. -/
def lfibCombine (b : Build) (x y : Word) : Word :=
  match b.lfibOp with
  | .mul => x * y
  | .other id => Config.freeLfibOp id x y

/-- The output function of variant 7 of the build (R195): the reference presents the new entry (R196; log entries 8, 9). That an
open output function sees the new value and nothing else is the model's choice (log entry 26). -/
def lfibOutput (b : Build) (v : Word) : Word :=
  match b.lfibOut with
  | .newEntry => v
  | .other id => Config.freeLfibOut id v

/-- Reference `STEPFN_7` (R196), with the build's `LFIB_OP` and output function: the new value replaces `T[i]`, both cursors
advance modulo `LFIB_K`. At the references it is `T[i] * T[j]`, presented as it is. -/
def stepLfib (b : Build) (k : Block) : Block × Word :=
  let i := k.cursor 0
  let j := k.cursor 1
  let v := lfibCombine b (k.word i.val) (k.word j.val)
  ({ words := k.words.set i.val v, cursors := [i + 1, j + 1] }, lfibOutput b v)

/-- Reference `SEEDFN_7` (R197): odd table entries, cursors at 0 and `LFIB_D`. -/
def seedLfib (b : Build) (arg : Word) : Block where
  words := (smFill arg lfibK).map (fun w => w ||| 1)
  cursors := [0, b.lfibD]

/-! ## Variant 8, MWC -/

/-- Reference `STEPFN_8` (R200): state `x, c`; the output is the PRE-update `x`. -/
def stepMwc (k : Block) : Block × Word :=
  let x := k.word 0
  let c := k.word 1
  let t := mul64x64 mwcA x
  let l := add64c t.2 c
  ({ words := [l.1, t.1 + carryWord l.2], cursors := [] }, x)

/-- Reference `SEEDFN_8` (R201). -/
def seedMwc (arg : Word) : Block := { words := smFill arg 1 ++ [1], cursors := [] }

/-! ## Variant 9, SFC -/

/-- Reference `STEPFN_9` (R203): state `a, b, c, n`. -/
def stepSfc (k : Block) : Block × Word :=
  let a := k.word 0
  let b := k.word 1
  let c := k.word 2
  let n := k.word 3
  let tmp := a + b + n
  ({ words := [b ^^^ (b >>> 11), c + (c <<< 3), rotl64 c 24 + tmp, n + 1], cursors := [] }, tmp)

/-- `n` warm-up steps of `STEPFN_9`, outputs dropped (R204). -/
def sfcDiscard : Nat → Block → Block
  | 0, k => k
  | n + 1, k => sfcDiscard n (stepSfc k).1

/-- Reference `SEEDFN_9` (R204). -/
def seedSfc (arg : Word) : Block := sfcDiscard sfcWarmUp { words := [arg, arg, arg, 1], cursors := [] }

end Sys2Proof.Machine
end

