-- ==== Sys2Proof/Machine/Rsx256.lean ====
section
/-! DEFINITION. Variant 2, RSX256 (43_rsx256.md R150 to R154). -/

namespace Sys2Proof.Machine

/-- `word[0] .. word[3]` (R150). -/
structure Rsx where
  w0 : Word
  w1 : Word
  w2 : Word
  w3 : Word
deriving DecidableEq, Repr

/-- The words of a block of variant 2 (10_state.md R21). -/
def rsxOfBlock (k : Block) : Rsx := ⟨k.word 0, k.word 1, k.word 2, k.word 3⟩

/-- The block of variant 2 with the given words. -/
def blockOfRsx (r : Rsx) : Block := { words := [r.w0, r.w1, r.w2, r.w3], cursors := [] }

/-- The word-wise exclusive or of two states (44_jump_unit.md R162). -/
def rsxXor (x y : Rsx) : Rsx := ⟨x.w0 ^^^ y.w0, x.w1 ^^^ y.w1, x.w2 ^^^ y.w2, x.w3 ^^^ y.w3⟩

/-- The scrambler, from the PRE-update `word[1]` (R152). -/
def rsxOut (r : Rsx) : Word := rotl64 (r.w1 * rsxMul1) rsxRotO * rsxMul2

/-- The update in RNGGO's order, every intermediate named (R152). -/
def rsxUpdate (r : Rsx) : Rsx :=
  let t := r.w1 <<< rsxShift
  let a2 := r.w2 ^^^ r.w0
  let a3 := r.w3 ^^^ r.w1
  let w1' := r.w1 ^^^ a2
  let w0' := r.w0 ^^^ a3
  let w2' := a2 ^^^ t
  let w3' := rotl64 a3 rsxRot
  ⟨w0', w1', w2', w3'⟩

/-- `RSX_STEP` (R152). -/
def rsxStep (r : Rsx) : Rsx × Word := (rsxUpdate r, rsxOut r)

/-- `SEEDFN_2`: the SplitMix fill of four words (R151). -/
def seedRsx256 (arg : Word) : Block := blockOfFill arg 4

/-- `STEPFN_2` (R154). -/
def stepRsx256 (k : Block) : Block × Word :=
  let r := rsxStep (rsxOfBlock k)
  (blockOfRsx r.1, r.2)

end Sys2Proof.Machine
end

