-- ==== Sys2Proof/Machine/Generator.lean ====
section
/-! DEFINITION. `SEEDFN_v` and `STEPFN_v` by variant (40_common_interface.md R101, R103), and the meanings of SEED, NEXT_U64,
NEXT_I63 and NEXT_U32 (R102, R104 to R106). -/

namespace Sys2Proof.Machine

/-- `SEEDFN_v : u64 -> State_v`: depends only on its argument and the build (R101, R103). -/
def seedFn (b : Build) (arg : Word) : Block :=
  match b.variant with
  | .lcg128 => seedLcg128 b arg
  | .splitmix => seedSplitMix arg
  | .rsx256 => seedRsx256 arg
  | .pcg32 => seedPcg32 b arg
  | .pcg64 => seedPcg64 b arg
  | .msws => seedChosen b seedMsws arg
  | .romu => seedChosen b (seedRomu b.romuKind) arg
  | .lfib => seedChosen b (seedLfib b) arg
  | .mwc => seedChosen b seedMwc arg
  | .sfc => seedChosen b seedSfc arg

/-- `STEPFN_v : State_v -> (State_v, u64)`: total on every block (R101, 10_state.md R26). -/
def stepFn (b : Build) (k : Block) : Block × Word :=
  match b.variant with
  | .lcg128 => stepLcg128 b k
  | .splitmix => stepSplitMix k
  | .rsx256 => stepRsx256 k
  | .pcg32 => stepPcg32 k
  | .pcg64 => stepPcg64 b k
  | .msws => stepChosen b stepMsws k
  | .romu => stepChosen b (stepRomu b.romuKind) k
  | .lfib => stepChosen b (stepLfib b) k
  | .mwc => stepChosen b stepMwc k
  | .sfc => stepChosen b stepSfc k

/-- `SEED` (R102). -/
def execSeed (arg : Word) (s : State) : Host.Outcome State Fault Refusal :=
  .next (complete (seedFn s.build arg) 0 s)

/-- `NEXT_U64` (R104). -/
def execNextU64 (s : State) : Host.Outcome State Fault Refusal :=
  let r := stepFn s.build s.block
  .next (complete r.1 (viewU64 r.2) s)

/-- `NEXT_I63` (R105). -/
def execNextI63 (s : State) : Host.Outcome State Fault Refusal :=
  let r := stepFn s.build s.block
  .next (complete r.1 (viewI63 r.2) s)

/-- `NEXT_U32` (R106): variant 3 only, UNSUPPORTED elsewhere. -/
def execNextU32 (s : State) : Host.Outcome State Fault Refusal :=
  if hasU32 s.build then
    let r := stepPcg32Half s.block
    .next (complete r.1 (viewU32 r.2) s)
  else .next (raise .unsupported s)

end Sys2Proof.Machine
end

