-- ==== Sys2Proof/Machine/JumpUnit.lean ====
section
/-! DEFINITION. The GF(2) jump unit of variant 2 and the meanings of JUMP and LONG_JUMP (44_jump_unit.md R160 to R164). -/

namespace Sys2Proof.Machine

/-- What the jump unit holds while it runs (10_state.md R27): the running state, `ACC[0..3]` and `BITCNT`. A local of the
loop: it exists only inside a JUMP or LONG_JUMP command (log entry 7). -/
structure JumpRegs where
  run : Rsx
  acc : Rsx
  bitcnt : Nat
deriving DecidableEq, Repr

/-- Bit `n mod 64` of word `n div 64` of a polynomial table (20_memory.md R58). -/
def polyBit (poly : List Word) (n : Nat) : Bool := (poly.getD (n / 64) 0).getLsbD (n % 64)

/-- One iteration of R162: the test first, then always the step. -/
def jumpIteration (poly : List Word) (r : JumpRegs) : JumpRegs where
  run := (rsxStep r.run).1
  acc := if polyBit poly r.bitcnt then rsxXor r.acc r.run else r.acc
  bitcnt := r.bitcnt + 1

/-- `n` iterations of R162. -/
def jumpLoop (poly : List Word) : Nat → JumpRegs → JumpRegs
  | 0, r => r
  | n + 1, r => jumpLoop poly n (jumpIteration poly r)

/-- The unit at the start of a jump: `ACC` and `BITCNT` zero (R162). -/
def jumpStart (r : Rsx) : JumpRegs := { run := r, acc := ⟨0, 0, 0, 0⟩, bitcnt := 0 }

/-- `JUMP_CORE(state, POLY) -> state'`: 256 iterations; the new state is `ACC` (R162). -/
def jumpCore (poly : List Word) (r : Rsx) : Rsx := (jumpLoop poly 256 (jumpStart r)).acc

/-- The common part of the two jumps: R161 and R164 differ only in the polynomial. UNSUPPORTED on every variant but 2. -/
def jumpBy (poly : List Word) (s : State) : Host.Outcome State Fault Refusal :=
  if hasJump s.build then .next (complete (blockOfRsx (jumpCore poly (rsxOfBlock s.block))) 0 s)
  else .next (raise .unsupported s)

/-- `JUMP` (R161). -/
def execJump (s : State) : Host.Outcome State Fault Refusal := jumpBy jumpPoly s

/-- `LONG_JUMP` (R164). -/
def execLongJump (s : State) : Host.Outcome State Fault Refusal := jumpBy longJumpPoly s

end Sys2Proof.Machine
end

