-- ==== Sys2Proof/Machine/StateAccess.lean ====
section
/-! DEFINITION. The meanings of LOAD_STATE and READ_STATE (40_common_interface.md R107, R108). -/

namespace Sys2Proof.Machine

/-- `LOAD_STATE idx, arg` (R107): one word or cursor is written, without validation; BAD_INDEX outside the index space. -/
def execLoadState (idx : Nat) (arg : Word) (s : State) : Host.Outcome State Fault Refusal :=
  if idx < nidx s.build then .next (complete (writeIndex s.build s.block idx arg) 0 s)
  else .next (raise .badIndex s)

/-- `READ_STATE idx` (R108): one word or cursor is presented, nothing is written; BAD_INDEX outside the index space. -/
def execReadState (idx : Nat) (s : State) : Host.Outcome State Fault Refusal :=
  if idx < nidx s.build then .next (complete s.block (readIndex s.build s.block idx) s)
  else .next (raise .badIndex s)

end Sys2Proof.Machine
end

