-- ==== Sys2Proof/Machine/Dispatch.lean ====
section
/-! DEFINITION. One arm per command (40_common_interface.md R100 steps 2 to 4). -/

namespace Sys2Proof.Machine

def exec (i : Instr) (s : State) : Host.Outcome State Fault Refusal :=
  match i with
  | .seed arg => Sys2Proof.Machine.execSeed arg s
  | .nextU64 => Sys2Proof.Machine.execNextU64 s
  | .nextI63 => Sys2Proof.Machine.execNextI63 s
  | .nextU32 => Sys2Proof.Machine.execNextU32 s
  | .jump => Sys2Proof.Machine.execJump s
  | .longJump => Sys2Proof.Machine.execLongJump s
  | .loadState idx arg => Sys2Proof.Machine.execLoadState idx arg s
  | .readState idx => Sys2Proof.Machine.execReadState idx s

end Sys2Proof.Machine
end

