-- ==== Sys2Proof/Machine/Port.lean ====
section
/-! DEFINITION. The command port: what each host action does to the instance (30_encoding.md R71, 40_common_interface.md R100,
70_reset_and_hazards.md R250, R251, R256). -/

namespace Sys2Proof.Machine

/-- An accepted command word (R100): decoded, then performed; ILLEGAL_OP where no row matches (30_encoding.md R76). -/
def runCommand (w : CmdWord) (s : State) : Host.Outcome State Fault Refusal :=
  match decode w with
  | .ok i => exec i s
  | .error _ => .next (raise .illegalOp s)

/-- One host action. A command shown together with `rst`, and a command in execution when `rst` rises, leave no trace (R239,
R251). -/
def perform (a : HostAction) (s : State) : Host.Outcome State Fault Refusal :=
  match a with
  | .idle => .next (noResponse s)
  | .command w => runCommand w s
  | .commandWhileBusy _ => .next (noResponse s)
  | .reset _ => .next (hardReset s)
  | .resetDuring _ => .next (hardReset s)

/-- The next host action and the state without it; a host with nothing to do is idle (R71). -/
def takeAction (s : State) : HostAction × State :=
  match s.inbox with
  | [] => (.idle, s)
  | a :: rest => (a, { s with inbox := rest })

/-- `s` with the command word put before every other host action. -/
def presentFirst (w : CmdWord) (s : State) : State := { s with inbox := .command w :: s.inbox }

end Sys2Proof.Machine
end

