-- ==== Sys2Proof/Machine/Step.lean ====
section
/-! DEFINITION. One step: one host action (00_scope.md R6, 70_reset_and_hazards.md R265). -/

namespace Sys2Proof.Machine

/-- One step of the instance. -/
def step (s : State) : Host.Outcome State Fault Refusal :=
  perform (takeAction s).1 (takeAction s).2

/-- `s` with the host presenting next the command whose bits are `w`, numbered as spec/opcode_table.json numbers them; a
number that is no 80-bit word is presented as the illegal word 0 (log entry 5). -/
def State.withFetchWord (s : State) (nbits w : Nat) : State :=
  presentFirst ((tableWord nbits w).getD 0) s

end Sys2Proof.Machine
end

