-- ==== Sys2Proof/Machine/Pseudo.lean ====
section
/-! DEFINITION. The pseudo-instructions of 30_encoding.md R80 and the byte order of a serialised output (20_memory.md R55).
None has an encoding of its own; each is a list of commands. -/

namespace Sys2Proof.Machine

/-- R80. -/
inductive Pseudo where
  /-- `LOAD_ALL w0, w1, ..., w(n-1)`, `n = NIDX(v)`. -/
  | loadAll (ws : List Word)
  /-- `DISCARD n`. -/
  | discard (n : Nat)
  /-- `STREAM seed, k`, variant 2. -/
  | stream (seed : Word) (k : Nat)
  /-- `NEXT_BYTES`: the command; what the host does with its response is `outputBytes`. -/
  | nextBytes
deriving DecidableEq, Repr

/-- The loads of `LOAD_ALL` from index `idx` on. -/
def loadsFrom (idx : Nat) : List Word → List Instr
  | [] => []
  | w :: ws => .loadState idx w :: loadsFrom (idx + 1) ws

/-- The expansion of a pseudo-instruction on an instance of build `b` (R80); none where it is not defined there: a LOAD_ALL
with another number of words than `NIDX(v)`, a STREAM on another variant than 2. -/
def Pseudo.expand (b : Build) : Pseudo → Option (List Instr)
  | .loadAll ws => if ws.length = nidx b then some (loadsFrom 0 ws) else none
  | .discard n => some (List.replicate n .nextU64)
  | .stream seed k => if hasJump b then some (.seed seed :: List.replicate k .jump) else none
  | .nextBytes => some [.nextU64]

/-- Byte `k` of a serialised output is `o[8k+7 : 8k]`, bytes in stream order (R55). -/
def outputBytes (o : Word) : List (BitVec 8) :=
  (List.range 8).map (fun k => o.extractLsb' (8 * k) 8)

end Sys2Proof.Machine
end

