-- ==== Sys2Proof/Machine/System.lean ====
section
/-! DEFINITION. Several instances: "the product of the single-instance models, in any interleaving" (60_exceptions.md R233,
20_memory.md R62). Instances share nothing and have no identifier; a system is their list. Log entry 16. -/

namespace Sys2Proof.Machine

/-- A system of instances (R233). -/
abbrev System := List State

/-- The state after a step; the same state where the instance stops. -/
def stepOr (s : State) : State :=
  match step s with
  | .next t => t
  | .fault _ => s
  | .refused _ => s

/-- One step of instance `k` of the system; the others do not move. A `k` that names no instance moves nothing. -/
def System.stepAt (sys : System) (k : Nat) : System := sys.modify k stepOr

end Sys2Proof.Machine
end

