-- ==== Sys2Proof/Safety.lean ====
section
/-! DEFINITION. The terms claims use: the invariant of a state, the seed invariants of 10_state.md R26, the status of a command
as 60_exceptions.md R222 writes it, and what the host observes of a run (00_scope.md R7). -/

namespace Sys2Proof.Machine

/-! ## Invariants -/

/-- The block has the shape of its variant: `NW` words and `NC` cursors (10_state.md R20, R21). -/
abbrev blockFits (b : Build) (k : Block) : Prop :=
  k.words.length = nw b ∧ k.cursors.length = nc b

/-- A response other than OK carries zero (30_encoding.md R77). -/
abbrev responseFits (r : Response) : Prop := r.status ≠ .ok → r.data = 0

/-- The invariant of a state: the build meets the constraints a model may assume, the block has its shape, and a refusal on
the response port carries zero. -/
abbrev State.Inv (s : State) : Prop :=
  s.build.wf = true ∧ blockFits s.build s.block ∧ ∀ r ∈ s.rsp, responseFits r

/-- "non-zero state": some word is not zero (10_state.md R26). -/
abbrev notAllZero (k : Block) : Prop := ∃ w ∈ k.words, w ≠ 0

/-- "odd lag-table entries" (R26, 46_remaining.md R195). -/
abbrev allOdd (k : Block) : Prop := ∀ w ∈ k.words, w.getLsbD 0 = true

/-- The invariant a seed function must establish, by variant (10_state.md R26; 46_remaining.md R190, R192, R197, R199, R202).
An open algorithm's invariant is not known, so none is claimed of it (log entry 24). -/
def seedInvariant (b : Build) (k : Block) : Prop :=
  match b.variant with
  | .lcg128 => b.lcgSeedMode = .hiSeedLoOne → (k.word 1).getLsbD 0 = true
  | .splitmix => True
  | .rsx256 => notAllZero k
  | .pcg32 => True
  | .pcg64 => True
  | .msws => True
  | .romu => b.algorithm = .reference → notAllZero k
  | .lfib => b.algorithm = .reference → allOdd k
  | .mwc => b.algorithm = .reference → 0 < (k.word 1).toNat ∧ (k.word 1).toNat < mwcA.toNat - 1
  | .sfc => True

/-! ## The status function of R222 -/

/-- `STATUS(w, v)` (60_exceptions.md R222), from the masks and matches of 30_encoding.md R74. -/
def statusOf (w : CmdWord) (b : Build) : Status :=
  match opcodeRows.find? (fun r => r.selects w) with
  | none => .illegalOp
  | some r =>
    if r.opcode = .nextU32 ∧ b.variant ≠ .pcg32 then .unsupported
    else if (r.opcode = .jump ∨ r.opcode = .longJump) ∧ b.variant ≠ .rsx256 then .unsupported
    else if (r.opcode = .loadState ∨ r.opcode = .readState) ∧ nidx b ≤ (fieldIdx w).toNat then .badIndex
    else .ok

/-! ## Runs -/

/-- The host presents these command words, one after the other, and nothing else. -/
def feed (ws : List CmdWord) (s : State) : State := { s with inbox := ws.map .command }

/-- What the response port shows after each of `n` steps. -/
def trace : Nat → State → List (Option Response)
  | 0, _ => []
  | n + 1, s =>
    match step s with
    | .next t => t.rsp :: trace n t
    | .fault _ => []
    | .refused _ => []

/-- The commands of a list performed in order, stopping where one does. -/
def execAll : List Instr → State → Host.Outcome State Fault Refusal
  | [], s => .next s
  | i :: is, s =>
    match exec i s with
    | .next t => execAll is t
    | .fault r => .fault r
    | .refused r => .refused r

/-- The response `rsp(OK, data)`. -/
abbrev okResponse (data : Word) : Option Response := some { status := .ok, data := data }

/-- A safe run of the block: the step has a next state. -/
def State.runs (s : State) : Prop := ∃ t, step s = .next t

end Sys2Proof.Machine
end

