-- ==== Sys2Proof/Certificates/Slice0/Obligations.lean ====
section
/-! DEFINITION. The statements for the provers, in the order of OBLIGATIONS.json. Each quantifies over every build, so it holds
for every value of an OPEN parameter unless it names one. -/

open Sys2Proof Sys2Proof.Machine

/-! ## Encoding -/

/-- Decoding the word of a well-formed command gives the command back (30_encoding.md R72, R74). -/
def Obligations.DecodeOfEncodeIsIdentity : Prop :=
  ∀ i : Instr, i.wf = true → decode (encode i) = .ok i

/-- A word that decodes is the word of the command it decodes to, and that command is well formed: each command has one word
(R72: "There is one command length, 80 bits, and one format"). -/
def Obligations.EncodeOfDecodeIsIdentity : Prop :=
  ∀ (w : CmdWord) (i : Instr), decode w = .ok i → encode i = w ∧ i.wf = true

/-- R74: "A command word `w` selects the row whose `(w & mask) == match`", at most one matches, and the operands are the
fields of the word. -/
def Obligations.DecoderFollowsTheOpcodeMap : Prop :=
  (∀ (w : CmdWord) (i : Instr), decode w = .ok i →
      (∃ r ∈ opcodeRows, r.opcode = i.opcode ∧ r.selects w = true) ∧
      i.idxField = fieldIdx w ∧ i.argField = fieldArg w) ∧
  (∀ (w : CmdWord), ∀ r ∈ opcodeRows, r.selects w = true → ∃ i, decode w = .ok i ∧ i.opcode = r.opcode) ∧
  (∀ (w : CmdWord), ∀ r ∈ opcodeRows, ∀ q ∈ opcodeRows, r.selects w = true → q.selects w = true → r = q)

/-- R76: which words are illegal, field by field, and that such a word ends with ILLEGAL_OP, data 0 and no change of state. -/
def Obligations.IllegalWordsAreTheOnesTheFieldsName : Prop :=
  (∀ w : CmdWord, (∃ e, decode w = .error e) ↔
      (fieldOp w = 0 ∨ 9 ≤ (fieldOp w).toNat) ∨
      fieldRsv w ≠ 0 ∨
      (fieldIdx w ≠ 0 ∧ fieldOp w ≠ 7 ∧ fieldOp w ≠ 8) ∨
      (fieldArg w ≠ 0 ∧ fieldOp w ≠ 1 ∧ fieldOp w ≠ 7)) ∧
  (∀ (w : CmdWord) (rest : List HostAction) (s : State), (∃ e, decode w = .error e) → s.inbox = .command w :: rest →
      step s = .next { s with inbox := rest, rsp := some ⟨.illegalOp, 0⟩ }) ∧
  ∃ e, decode 0 = .error e

/-- Words written out from R74, one per row (95_test_vectors.md 2.2). -/
def Obligations.WordsOfTheOpcodeMapDecode : Prop :=
  decode 0x1000ffffffffffffffff = .ok (.seed 0xffffffffffffffff) ∧
  decode 0x20000000000000000000 = .ok .nextU64 ∧
  decode 0x30000000000000000000 = .ok .nextI63 ∧
  decode 0x40000000000000000000 = .ok .nextU32 ∧
  decode 0x50000000000000000000 = .ok .jump ∧
  decode 0x60000000000000000000 = .ok .longJump ∧
  decode 0x70030000000000000004 = .ok (.loadState 3 4) ∧
  decode 0x80410000000000000000 = .ok (.readState 65)

/-! ## The step -/

/-- A step whose host action is a command runs exactly the command its word decodes to, on the state whose inbox has moved on
(40_common_interface.md R100). -/
def Obligations.StepRunsTheDecodedCommand : Prop :=
  (∀ (s : State) (w : CmdWord) (rest : List HostAction) (i : Instr),
      s.inbox = .command w :: rest → decode w = .ok i → step s = exec i { s with inbox := rest }) ∧
  (∀ (s : State) (nbits n : Nat) (w : CmdWord) (i : Instr),
      tableWord nbits n = some w → decode w = .ok i → step (s.withFetchWord nbits n) = exec i s)

/-- 60_exceptions.md R222: the status of the response to a command word is `STATUS(w, v)`, `NIDX(v)` having the values R222
lists; 30_encoding.md R78: the code each status has on `rsp_status[1:0]`. -/
def Obligations.CommandStatusIsTheStatusFunction : Prop :=
  (∀ (s : State) (w : CmdWord) (rest : List HostAction), s.inbox = .command w :: rest →
    ∃ t r, step s = .next t ∧ t.rsp = some r ∧ r.status = statusOf w s.build) ∧
  (∀ b : Build,
    (b.variant = .splitmix ∨ b.variant = .pcg32 → nidx b = 1) ∧
    (b.variant = .lcg128 ∨ b.variant = .pcg64 → nidx b = 2) ∧
    (b.variant = .rsx256 → nidx b = 4) ∧
    (b.variant = .msws ∨ b.variant = .romu ∨ b.variant = .mwc ∨ b.variant = .sfc → nidx b = nw b) ∧
    (b.variant = .lfib → nidx b = 66)) ∧
  statusCode .ok = 0 ∧ statusCode .illegalOp = 1 ∧ statusCode .unsupported = 2 ∧ statusCode .badIndex = 3

/-- 60_exceptions.md R224: the response of a refused command is its whole effect. -/
def Obligations.RefusedCommandOnlyResponds : Prop :=
  ∀ (s : State) (w : CmdWord) (rest : List HostAction), s.inbox = .command w :: rest →
    statusOf w s.build ≠ .ok →
    step s = .next { s with inbox := rest, rsp := some ⟨statusOf w s.build, 0⟩ }

/-- 60_exceptions.md R220: no exception of any kind; every command completes on every state. -/
def Obligations.EveryCommandAndStepCompletes : Prop :=
  (∀ s : State, ∃ t, step s = .next t) ∧ ∀ (i : Instr) (s : State), ∃ t, exec i s = .next t

/-- A cycle without a command, and a command presented while `cmd_ready` is low, change nothing and produce no response
(30_encoding.md R71, 70_reset_and_hazards.md R256). An empty inbox is an idle host (log entry 4). -/
def Obligations.WithoutAnAcceptedCommandNothingChanges : Prop :=
  (∀ s : State, s.inbox = [] → step s = .next { s with rsp := none }) ∧
  (∀ (s : State) (rest : List HostAction), s.inbox = .idle :: rest →
      step s = .next { s with inbox := rest, rsp := none }) ∧
  (∀ (s : State) (w : CmdWord) (rest : List HostAction), s.inbox = .commandWhileBusy w :: rest →
      step s = .next { s with inbox := rest, rsp := none })

/-- 70_reset_and_hazards.md R250: reset zeroes every word and cursor and lowers `rsp_valid`, whatever command is shown; the
instance is ready afterwards and is in the same state after each reset. R251: a command in execution when `rst` rises is
abandoned without a response, and the state is that reset state. -/
def Obligations.ResetZeroesTheStateBlock : Prop :=
  (∀ (s : State) (shown : Option CmdWord) (rest : List HostAction), s.inbox = .reset shown :: rest →
    ∃ t, step s = .next t ∧
      t.block.words.length = nw s.build ∧ t.block.cursors.length = nc s.build ∧
      (∀ i, i < nw s.build → t.block.word i = 0) ∧ (∀ j, j < nc s.build → t.block.cursor j = 0) ∧
      t.rspValid = false ∧ t.cmdReady = true ∧ t.build = s.build ∧ t.inbox = rest) ∧
  (∀ (s₁ s₂ : State) (shown₁ shown₂ : Option CmdWord) (rest : List HostAction), s₁.build = s₂.build →
    s₁.inbox = .reset shown₁ :: rest → s₂.inbox = .reset shown₂ :: rest → step s₁ = step s₂) ∧
  (∀ (s : State) (w : CmdWord) (rest : List HostAction), s.inbox = .resetDuring w :: rest →
    step s = step { s with inbox := .reset none :: rest })

/-- 10_state.md R40: after reset every word and both cursors are zero, on every build. -/
def Obligations.AfterResetEveryIndexReadsZero : Prop :=
  ∀ (b : Build) (idx : Nat), idx < nidx b →
    exec (.readState idx) (State.resetOf b) = .next { State.resetOf b with rsp := okResponse 0 }

/-- The invariant holds right after reset, on every build that meets its constraints and on the model's own reset state. -/
def Obligations.ResetStateMeetsTheInvariant : Prop :=
  (∀ b : Build, b.wf = true → (State.resetOf b).Inv) ∧ State.reset.Inv

/-- Every step keeps the shape of the state block and leaves the build alone (10_state.md R20: "Not state, and therefore
parameters of the step relation: `VARIANT`, every algorithm constant ..., and the two jump polynomials"). The strap `variant_id[3:0]` shows the number of the variant before
and after it, reset included (10_state.md R31, 30_encoding.md R70). -/
def Obligations.EveryStepKeepsTheInvariant : Prop :=
  ∀ s t : State, s.Inv → step s = .next t → t.Inv ∧ t.build = s.build ∧ t.variantId = s.variantId ∧
    (s.build.variant, t.variantId) ∈
      ([(.lcg128, 0), (.splitmix, 1), (.rsx256, 2), (.pcg32, 3), (.pcg64, 4), (.msws, 5), (.romu, 6), (.lfib, 7), (.mwc, 8),
        (.sfc, 9)] : List (Variant × BitVec 4))

/-- 10_state.md R32: which command touches what. No command touches the build or the host's pending actions, each presents a
response; SEED does not depend on the old block; a command that ends with another status than OK leaves the block;
LOAD_STATE changes the index it names and no other; READ_STATE changes nothing. -/
def Obligations.CommandsTouchOnlyWhatTheTableNames : Prop :=
  (∀ (i : Instr) (s t : State), exec i s = .next t →
      t.build = s.build ∧ t.inbox = s.inbox ∧ ∃ r, t.rsp = some r ∧ (r.status ≠ .ok → t.block = s.block)) ∧
  (∀ (arg : Word) (s₁ s₂ t₁ t₂ : State), s₁.build = s₂.build →
      exec (.seed arg) s₁ = .next t₁ → exec (.seed arg) s₂ = .next t₂ → t₁.block = t₂.block) ∧
  (∀ (idx : Nat) (arg : Word) (s t : State), exec (.loadState idx arg) s = .next t →
      ∀ j, j ≠ idx → readIndex t.build t.block j = readIndex s.build s.block j) ∧
  (∀ (idx : Nat) (s t : State), exec (.readState idx) s = .next t → t.block = s.block)

/-- Each accepted command produces exactly one response, the k-th command the k-th (30_encoding.md R71, R77), and its status
is `STATUS` of that command's word (R222). -/
def Obligations.ResponsesPairWithCommands : Prop :=
  ∀ (ws : List CmdWord) (s : State),
    (trace ws.length (feed ws s)).map (Option.map Response.status) = ws.map (fun w => some (statusOf w s.build))

/-- After a SEED nothing of the past shows: two instances of one build, in whatever states, that are given the same SEED and
then the same command words, answer alike for ever (40_common_interface.md R102 b, R110; RNGGO §8 determinism). -/
def Obligations.SeedForgetsThePast : Prop :=
  ∀ (s₁ s₂ : State) (arg : Word) (ws : List CmdWord) (n : Nat), s₁.build = s₂.build →
    trace n (feed (encode (.seed arg) :: ws) s₁) = trace n (feed (encode (.seed arg) :: ws) s₂)

/-! ## The common interface -/

/-- SEED completes on every variant, build and argument, with SEEDFN_v's block and `rsp(OK, 0)`
(40_common_interface.md R102). -/
def Obligations.SeedCompletesOnEveryVariant : Prop :=
  ∀ (arg : Word) (s : State),
    exec (.seed arg) s = .next { s with block := seedFn s.build arg, rsp := okResponse 0 }

/-- NEXT_U64 completes on every variant, build and state, with one application of STEPFN_v (R104). -/
def Obligations.NextU64CompletesOnEveryVariant : Prop :=
  ∀ s : State, exec .nextU64 s =
    .next { s with block := (stepFn s.build s.block).1, rsp := okResponse (stepFn s.build s.block).2 }

/-- 40_common_interface.md R105: NEXT_I63 completes on every state, advances the state exactly as NEXT_U64 does, and presents
half of its output: bit 0 is dropped, bit 63 is zero, the value read as an `i64` is not negative. A word of operation code 3 is
this command when its other fields are zero, and illegal otherwise. -/
def Obligations.NextI63IsHalfOfNextU64 : Prop :=
  (∀ s : State, ∃ out v : Word,
    exec .nextU64 s = .next { s with block := (stepFn s.build s.block).1, rsp := okResponse out } ∧
    exec .nextI63 s = .next { s with block := (stepFn s.build s.block).1, rsp := okResponse v } ∧
    v.toNat = out.toNat / 2 ∧ v.msb = false ∧ v.toInt = (v.toNat : Int) ∧
    ∀ k, k < 63 → v.getLsbD k = out.getLsbD (k + 1)) ∧
  (∀ w : CmdWord, fieldOp w = 3 →
    if fieldRsv w = 0 ∧ fieldIdx w = 0 ∧ fieldArg w = 0 then decode w = .ok .nextI63 else ∃ e, decode w = .error e)

/-- Every SEED leaves a block of the right shape that satisfies the seed invariant of its variant, for every one of the 2^64
seeds (40_common_interface.md R102 c; RNGGO §8 non-degeneracy). Of an open algorithm no invariant is claimed (log entry
24). -/
def Obligations.SeedEstablishesTheSeedInvariant : Prop :=
  ∀ (arg : Word) (s : State), ∃ t, exec (.seed arg) s = .next t ∧
    blockFits t.build t.block ∧ seedInvariant t.build t.block

/-- 40_common_interface.md R107: LOAD_STATE writes the index it names: a word as given, a cursor modulo LFIB_K; any other index
reads as before; outside the index space it ends with BAD_INDEX and writes nothing. A word of operation code 7 is this command
when `rsv` is zero, and illegal otherwise. -/
def Obligations.LoadStateWritesOneIndex : Prop :=
  (∀ (idx : Nat) (arg : Word) (s : State), blockFits s.build s.block → idx < nidx s.build →
    ∃ t, exec (.loadState idx arg) s = .next t ∧ t.rsp = okResponse 0 ∧ t.build = s.build ∧ t.inbox = s.inbox ∧
      blockFits t.build t.block ∧
      readIndex t.build t.block idx =
        (if idx < nw s.build then arg else BitVec.ofNat 64 (arg.toNat % 64)) ∧
      ∀ j, j ≠ idx → readIndex t.build t.block j = readIndex s.build s.block j) ∧
  (∀ (idx : Nat) (arg : Word) (s : State), nidx s.build ≤ idx →
    exec (.loadState idx arg) s = .next { s with rsp := some ⟨.badIndex, 0⟩ }) ∧
  (∀ w : CmdWord, fieldOp w = 7 →
    if fieldRsv w = 0 then decode w = .ok (.loadState (fieldIdx w).toNat (fieldArg w)) else ∃ e, decode w = .error e)

/-- 40_common_interface.md R108: READ_STATE presents the word, or the cursor zero-extended, and changes nothing else; outside
the index space it ends with BAD_INDEX. A word of operation code 8 is this command when `rsv` and `arg` are zero, and illegal
otherwise. -/
def Obligations.ReadStatePresentsOneIndex : Prop :=
  (∀ (idx : Nat) (s : State), idx < nw s.build →
    exec (.readState idx) s = .next { s with rsp := okResponse (s.block.words.getD idx 0) }) ∧
  (∀ (idx : Nat) (s : State), nw s.build ≤ idx → idx < nidx s.build →
    exec (.readState idx) s =
      .next { s with rsp := okResponse (BitVec.ofNat 64 (s.block.cursors.getD (idx - nw s.build) 0).val) }) ∧
  (∀ (idx : Nat) (s : State), nidx s.build ≤ idx →
    exec (.readState idx) s = .next { s with rsp := some ⟨.badIndex, 0⟩ }) ∧
  (∀ w : CmdWord, fieldOp w = 8 →
    if fieldRsv w = 0 ∧ fieldArg w = 0 then decode w = .ok (.readState (fieldIdx w).toNat) else ∃ e, decode w = .error e)

/-- The pseudo-instruction LOAD_ALL leaves every index at the word given for it, a cursor at its residue modulo LFIB_K
(30_encoding.md R80, 70_reset_and_hazards.md R254). -/
def Obligations.LoadAllLoadsEveryIndex : Prop :=
  ∀ (s : State) (ws : List Word) (is : List Instr), blockFits s.build s.block →
    Pseudo.expand s.build (.loadAll ws) = some is →
    ∃ t, execAll is s = .next t ∧ t.build = s.build ∧ t.inbox = s.inbox ∧ blockFits t.build t.block ∧
      (∀ i, i < nw s.build → readIndex t.build t.block i = ws.getD i 0) ∧
      (∀ i, nw s.build ≤ i → i < nidx s.build →
        readIndex t.build t.block i = BitVec.ofNat 64 ((ws.getD i 0).toNat % 64))

/-! ## Primitives -/

/-- 00_scope.md R11 and R12: `mul64x64` and both forms of `add64c` lose nothing. -/
def Obligations.WideMultiplyAndCarryAddAreExact : Prop :=
  (∀ a b : Word, (mul64x64 a b).1.toNat * 2 ^ 64 + (mul64x64 a b).2.toNat = a.toNat * b.toNat) ∧
  (∀ a b : Word, (add64c a b).2.toNat * 2 ^ 64 + (add64c a b).1.toNat = a.toNat + b.toNat) ∧
  (∀ (a b : Word) (c : Bool), (add64c3 a b c).2.toNat * 2 ^ 64 + (add64c3 a b c).1.toNat = a.toNat + b.toNat + c.toNat)

/-- 00_scope.md R13: the rotates move every bit cyclically, a rotate by 0 included. -/
def Obligations.RotatesMoveBitsCyclically : Prop :=
  (∀ (x : Word) (k i : Nat), k < 64 → i < 64 → (rotl64 x k).getLsbD i = x.getLsbD ((i + 64 - k) % 64)) ∧
  (∀ (x : Word) (k i : Nat), k < 64 → i < 64 → (rotr64 x k).getLsbD i = x.getLsbD ((i + k) % 64)) ∧
  (∀ (x : Half) (k i : Nat), k < 32 → i < 32 → (rotr32 x k).getLsbD i = x.getLsbD ((i + k) % 32))

/-- 20_memory.md R55: the bytes of a serialised output, least significant first, put together again give the output. -/
def Obligations.OutputBytesAreLittleEndian : Prop :=
  ∀ o : Word, (outputBytes o).length = 8 ∧
    (outputBytes o).foldr (fun byte acc => byte.toNat + 256 * acc) 0 = o.toNat

/-! ## Variant 0 -/

/-- 41_lcg128.md R131: the 64-bit computation is the 128-bit multiply-add modulo 2^128. -/
def Obligations.LcgUpdateIsMultiplyAddModulo128 : Prop :=
  ∀ (hi lo : Word) (m a : Wide),
    wide (lcg128Update hi lo m a).1 (lcg128Update hi lo m a).2 = wide hi lo * m + a

/-- 41_lcg128.md R133: NEXT_U64 on variant 0 multiplies and adds modulo 2^128 and returns the high 64 bits of the
post-update state, whatever the constants; NEXT_I63 the same shifted right by one. -/
def Obligations.NextOnLcg128ReturnsTheNewHighWord : Prop :=
  ∀ (s : State) (v : Wide), s.build.variant = .lcg128 →
    v = wide (s.block.word 0) (s.block.word 1) * s.build.lcgM + s.build.lcgA →
    exec .nextU64 s =
      .next { s with block := ⟨[v.extractLsb' 64 64, v.extractLsb' 0 64], []⟩, rsp := okResponse (v.extractLsb' 64 64) } ∧
    exec .nextI63 s =
      .next { s with block := ⟨[v.extractLsb' 64 64, v.extractLsb' 0 64], []⟩, rsp := okResponse (v.extractLsb' 64 64 >>> 1) }

/-- 41_lcg128.md R132: SEED on variant 0 in both seed modes. -/
def Obligations.SeedOnLcg128FollowsTheSeedMode : Prop :=
  ∀ (arg : Word) (s : State), s.build.variant = .lcg128 →
    (s.build.lcgSeedMode = .loSeed →
      exec (.seed arg) s = .next { s with block := ⟨[0, arg], []⟩, rsp := okResponse 0 }) ∧
    (s.build.lcgSeedMode = .hiSeedLoOne →
      exec (.seed arg) s = .next { s with block := ⟨[arg, 1], []⟩, rsp := okResponse 0 })

/-! ## Variant 1 -/

/-- 42_splitmix.md R144 a, b: the state after `n` steps from seed `a` is `a + n * SM_GAMMA`, and the n-th output is the mix of
that post-increment value; SEED copies the seed (R143). The mix is written out: three rounds, no multiply in the third (R141),
with the constants of R142, which log entry 11 marks. -/
def Obligations.SplitMixStateIsAWeylSequence : Prop :=
  (∀ z : Word, ∃ z₁ z₂ : Word,
    z₁ = (z ^^^ (z >>> 30)) * 0xbf58476d1ce4e5b9 ∧ z₂ = (z₁ ^^^ (z₁ >>> 27)) * 0x94d049bb133111eb ∧
    smMix z = z₂ ^^^ (z₂ >>> 31)) ∧
  ∀ (s : State) (a : Word) (n : Nat), s.build.variant = .splitmix →
    execAll (.seed a :: List.replicate (n + 1) .nextU64) s =
      .next { s with
        block := ⟨[a + BitVec.ofNat 64 (n + 1) * 0x9e3779b97f4a7c15], []⟩
        rsp := okResponse (smMix (a + BitVec.ofNat 64 (n + 1) * 0x9e3779b97f4a7c15)) }

/-- 42_splitmix.md R145: the output map is a bijection, so among two consecutive outputs at most one is zero. -/
def Obligations.SplitMixOutputIsABijection : Prop :=
  Function.Bijective smMix ∧
  ∀ s : Word, (smStep s).2 ≠ 0 ∨ (smStep (smStep s).1).2 ≠ 0

/-! ## Variant 2 -/

/-- SEED on variant 2 is four SplitMix outputs in order, and never the all-zero state (43_rsx256.md R151). The digits of the
increment, and those in `smMix`, are the constants of R142, which log entry 11 marks. -/
def Obligations.SeedOnRsx256FillsFourWords : Prop :=
  ∀ (arg : Word) (s : State), s.build.variant = .rsx256 →
    ∃ w0 w1 w2 w3 : Word,
      exec (.seed arg) s = .next { s with block := ⟨[w0, w1, w2, w3], []⟩, rsp := okResponse 0 } ∧
      w0 = smMix (arg + 0x9e3779b97f4a7c15) ∧ w1 = smMix (arg + 2 * 0x9e3779b97f4a7c15) ∧
      w2 = smMix (arg + 3 * 0x9e3779b97f4a7c15) ∧ w3 = smMix (arg + 4 * 0x9e3779b97f4a7c15) ∧
      (w0 ≠ 0 ∨ w1 ≠ 0)

/-- 43_rsx256.md R152, R154: NEXT_U64 on variant 2 in closed form; the output comes from the pre-update `word[1]`. -/
def Obligations.NextOnRsx256InClosedForm : Prop :=
  ∀ (s : State) (w0 w1 w2 w3 : Word), s.build.variant = .rsx256 →
    w0 = s.block.word 0 → w1 = s.block.word 1 → w2 = s.block.word 2 → w3 = s.block.word 3 →
    exec .nextU64 s =
      .next { s with
        block := ⟨[w0 ^^^ w1 ^^^ w3, w0 ^^^ w1 ^^^ w2, w0 ^^^ w2 ^^^ (w1 <<< 17), (w1 ^^^ w3).rotateLeft 45], []⟩
        rsp := okResponse ((w1 * 5).rotateLeft 7 * 9) }

/-- 43_rsx256.md R156: the update is linear over GF(2). -/
def Obligations.RsxUpdateIsLinear : Prop :=
  ∀ x y : Rsx, rsxUpdate (rsxXor x y) = rsxXor (rsxUpdate x) (rsxUpdate y)

/-- 43_rsx256.md R155: the update is invertible and fixes the all-zero state, whose output is 0; so a state that is not zero
never steps to zero. -/
def Obligations.RsxUpdateIsInvertibleAndFixesZero : Prop :=
  Function.Bijective rsxUpdate ∧ rsxStep ⟨0, 0, 0, 0⟩ = (⟨0, 0, 0, 0⟩, 0) ∧
  ∀ r : Rsx, r ≠ ⟨0, 0, 0, 0⟩ → (rsxStep r).1 ≠ ⟨0, 0, 0, 0⟩

/-! ## The jump unit -/

/-- 44_jump_unit.md R161, and R164 but for its remark on repeated jumps: JUMP and LONG_JUMP complete on variant 2 from every
state with the new block of JUMP_CORE and `rsp(OK, 0)`, the all-zero state included, which stays; they end with UNSUPPORTED on
every other variant; a word of operation code 5 is JUMP when its other fields are zero, and illegal otherwise. -/
def Obligations.JumpsCompleteOnRsx256Only : Prop :=
  (∀ s : State, s.build.variant = .rsx256 →
    exec .jump s = .next { s with block := blockOfRsx (jumpCore jumpPoly (rsxOfBlock s.block)), rsp := okResponse 0 } ∧
    exec .longJump s =
      .next { s with block := blockOfRsx (jumpCore longJumpPoly (rsxOfBlock s.block)), rsp := okResponse 0 }) ∧
  (∀ s : State, s.build.variant ≠ .rsx256 →
    exec .jump s = .next { s with rsp := some ⟨.unsupported, 0⟩ } ∧
    exec .longJump s = .next { s with rsp := some ⟨.unsupported, 0⟩ }) ∧
  (jumpCore jumpPoly ⟨0, 0, 0, 0⟩ = ⟨0, 0, 0, 0⟩ ∧ jumpCore longJumpPoly ⟨0, 0, 0, 0⟩ = ⟨0, 0, 0, 0⟩) ∧
  (∀ w : CmdWord, fieldOp w = 5 →
    if fieldRsv w = 0 ∧ fieldIdx w = 0 ∧ fieldArg w = 0 then decode w = .ok .jump else ∃ e, decode w = .error e)

/-- 44_jump_unit.md R162, R165: the loop sums the stepped states selected by the bits of the polynomial: bit `n` of the table,
word 0 and bit 0 first, selects the state `n` steps ahead. -/
def Obligations.JumpCoreSumsTheSelectedSteps : Prop :=
  ∀ (p0 p1 p2 p3 : Word) (r : Rsx),
    jumpCore [p0, p1, p2, p3] r =
      (List.range 256).foldl
        (fun acc n => if (p3 ++ p2 ++ p1 ++ p0 : BitVec 256).getLsbD n then rsxXor acc (rsxUpdate^[n] r) else acc)
        ⟨0, 0, 0, 0⟩

/-- 44_jump_unit.md R165 (RNGGO §8 jump equivalence): on variant 2 JUMP leaves the state that 2^128 ordinary steps leave, and
LONG_JUMP that of 2^192. The step counts are named by equations, so that nothing evaluates them. -/
def Obligations.JumpEqualsTwoPow128Steps : Prop :=
  ∀ (s : State) (n m : Nat), s.build.variant = .rsx256 → n = 2 ^ 128 → m = 2 ^ 192 →
    exec .jump s = .next { s with block := blockOfRsx (rsxUpdate^[n] (rsxOfBlock s.block)), rsp := okResponse 0 } ∧
    exec .longJump s = .next { s with block := blockOfRsx (rsxUpdate^[m] (rsxOfBlock s.block)), rsp := okResponse 0 }

/-- 44_jump_unit.md R167 a: a jump commutes with stepping: both orders leave the same block. -/
def Obligations.JumpCommutesWithStepping : Prop :=
  ∀ (s : State) (n : Nat), s.build.variant = .rsx256 →
    ∃ t₁ t₂ u₁ u₂ : State,
      execAll (.jump :: List.replicate n .nextU64) s = .next t₁ ∧
      execAll (List.replicate n .nextU64 ++ [.jump]) s = .next t₂ ∧ t₁.block = t₂.block ∧
      execAll (.longJump :: List.replicate n .nextU64) s = .next u₁ ∧
      execAll (List.replicate n .nextU64 ++ [.longJump]) s = .next u₂ ∧ u₁.block = u₂.block

/-- 43_rsx256.md R155, 44_jump_unit.md R167 c: on variant 2 a state that is not all zero stays so under every step whose host
action is neither a reset nor a LOAD_STATE. -/
def Obligations.NonZeroRsxStateStaysNonZero : Prop :=
  ∀ (s t : State) (w : CmdWord) (rest : List HostAction), s.build.variant = .rsx256 → s.Inv → notAllZero s.block →
    s.inbox = .command w :: rest → (∀ idx arg, decode w ≠ .ok (.loadState idx arg)) →
    step s = .next t → notAllZero t.block

/-! ## Variants 3 and 4 -/

/-- STEP32 (45_pcg.md R171): bit `i` of the 32-bit output is bit `27 + (i + r) mod 32` of `p ^ (p >> 18)`, `r` the top five bits
of the OLD state `p`; the new state is `p * PCG32_M + PCG32_A`, with the constants of R172, which log entry 11 marks. -/
def Obligations.Pcg32StepPermutesTheOldState : Prop :=
  ∀ (p : Word), (step32 p).1 = p * 0x5851f42d4c957f2d + 0x14057b7ef767814f ∧
    ∀ i, i < 32 → (step32 p).2.getLsbD i = (p ^^^ (p >>> 18)).getLsbD (27 + (i + p.toNat / 2 ^ 59) % 32)

/-- 40_common_interface.md R106: NEXT_U32 completes on variant 3 with one transition and the output zero-extended, and ends
with UNSUPPORTED on every other variant; `data[63:32]` is 0. A word of operation code 4 is this command when its other fields
are zero, and illegal otherwise. -/
def Obligations.NextU32CompletesOnPcg32Only : Prop :=
  (∀ s : State, s.build.variant = .pcg32 →
    exec .nextU32 s =
      .next { s with
        block := ⟨[(step32 (s.block.word 0)).1], []⟩
        rsp := okResponse (BitVec.ofNat 64 (step32 (s.block.word 0)).2.toNat) }) ∧
  (∀ s : State, s.build.variant ≠ .pcg32 → exec .nextU32 s = .next { s with rsp := some ⟨.unsupported, 0⟩ }) ∧
  (∀ w : CmdWord, fieldOp w = 4 →
    if fieldRsv w = 0 ∧ fieldIdx w = 0 ∧ fieldArg w = 0 then decode w = .ok .nextU32 else ∃ e, decode w = .error e)

/-- 45_pcg.md R175, 20_memory.md R56: on variant 3 NEXT_U64 is two NEXT_U32 in one command, the first output in the low 32
bits and the second in the high 32 bits; NEXT_I63 performs the same two transitions and presents the output shifted right by
one. -/
def Obligations.NextU64OnPcg32PacksTwoNextU32 : Prop :=
  ∀ s : State, s.build.variant = .pcg32 →
    ∃ (t₁ t₂ : State) (first second : Word),
      exec .nextU32 s = .next t₁ ∧ t₁.rsp = okResponse first ∧
      exec .nextU32 t₁ = .next t₂ ∧ t₂.rsp = okResponse second ∧
      exec .nextU64 s = .next { s with block := t₂.block, rsp := okResponse (second <<< 32 ||| first) } ∧
      exec .nextI63 s = .next { s with block := t₂.block, rsp := okResponse ((second <<< 32 ||| first) >>> 1) } ∧
      first.toNat < 2 ^ 32 ∧ second.toNat < 2 ^ 32

/-- SEED on variant 3 copies the seed and discards PCG32_SEED_DISCARD transitions (45_pcg.md R173). The digits are the constants
of R172, which log entry 11 marks. -/
def Obligations.SeedOnPcg32DiscardsOneTransition : Prop :=
  ∀ (arg : Word) (s : State), s.build.variant = .pcg32 →
    (s.build.pcg32SeedDiscard = 1 → exec (.seed arg) s =
      .next { s with block := ⟨[arg * 0x5851f42d4c957f2d + 0x14057b7ef767814f], []⟩, rsp := okResponse 0 }) ∧
    (s.build.pcg32SeedDiscard = 0 → exec (.seed arg) s = .next { s with block := ⟨[arg], []⟩, rsp := okResponse 0 })

/-- 45_pcg.md R177, R178, R180: NEXT_U64 on variant 4 is the 128-bit multiply-add with the build's constants, the output
PCG64_OUT of the new or of the old state; the reference permutation is XSL-RR (R179); the reference SEED is the seed in `lo`
and one transition. -/
def Obligations.NextAndSeedOnPcg64 : Prop :=
  (∀ (s : State) (v : Wide), s.build.variant = .pcg64 →
    v = wide (s.block.word 0) (s.block.word 1) * s.build.pcg64M + s.build.pcg64A →
    exec .nextU64 s =
      .next { s with
        block := ⟨[v.extractLsb' 64 64, v.extractLsb' 0 64], []⟩
        rsp := okResponse
          (if s.build.pcg64OutFrom = .new then pcg64Out s.build (v.extractLsb' 64 64) (v.extractLsb' 0 64)
           else pcg64Out s.build (s.block.word 0) (s.block.word 1)) }) ∧
  (∀ (b : Build) (h l : Word), b.pcg64Out = .xslRr →
    pcg64Out b h l = (h ^^^ l).rotateRight (h.toNat / 2 ^ 58)) ∧
  (∀ (s : State) (arg : Word) (v : Wide), s.build.variant = .pcg64 → s.build.pcg64SeedFn = .reference →
    v = wide 0 arg * s.build.pcg64M + s.build.pcg64A →
    exec (.seed arg) s =
      .next { s with block := ⟨[v.extractLsb' 64 64, v.extractLsb' 0 64], []⟩, rsp := okResponse 0 })

/-! ## Variants 5 to 9 -/

/-- 46_remaining.md R186, R187: an open algorithm of variants 5 to 9 completes with a whole block of its shape, whatever its
functions are, and no word or output is claimed of it. -/
def Obligations.OpenAlgorithmsComplete : Prop :=
  ∀ (s : State) (n id : Nat) (arg : Word), s.build.algorithm = .other n id →
    (s.build.variant = .msws ∨ s.build.variant = .romu ∨ s.build.variant = .lfib ∨ s.build.variant = .mwc ∨
      s.build.variant = .sfc) →
    ∃ k₁ k₂ : Block, ∃ out : Word, blockFits s.build k₁ ∧ blockFits s.build k₂ ∧
      (s.build.variant ≠ .lfib → k₁.words.length = n ∧ k₁.cursors = []) ∧
      exec (.seed arg) s = .next { s with block := k₁, rsp := okResponse 0 } ∧
      exec .nextU64 s = .next { s with block := k₂, rsp := okResponse out } ∧
      exec .nextI63 s = .next { s with block := k₂, rsp := okResponse (out >>> 1) }

/-- 46_remaining.md R190, R191 (reference of variant 5; the spec's own choice, log entry 9). -/
def Obligations.ReferenceMswsStepAndSeed : Prop :=
  ∀ (s : State) (x1 w1 x2 w2 arg : Word), s.build.variant = .msws → s.build.algorithm = .reference →
    s.block = ⟨[x1, w1, x2, w2], []⟩ →
    exec .nextU64 s =
      .next { s with
        block := ⟨[(x1 * x1 + (w1 + 0xb5ad4eceda1ce2a9)).rotateLeft 32, w1 + 0xb5ad4eceda1ce2a9,
          (x2 * x2 + (w2 + 0x278c5a4d8419fe6b)).rotateLeft 32, w2 + 0x278c5a4d8419fe6b], []⟩
        rsp := okResponse ((x1 * x1 + (w1 + 0xb5ad4eceda1ce2a9)) ^^^
          (x2 * x2 + (w2 + 0x278c5a4d8419fe6b)).rotateLeft 32) } ∧
    exec (.seed arg) s = .next { s with block := ⟨smFill arg 4, []⟩, rsp := okResponse 0 }

/-- 46_remaining.md R193, R194 (reference of variant 6, every kind): the output is the pre-update `x`, and a state that is not
all zero never steps to the all-zero state (R192). -/
def Obligations.ReferenceRomuOutputsTheOldWordAndStaysNonZero : Prop :=
  ∀ s : State, s.build.variant = .romu → s.build.algorithm = .reference → blockFits s.build s.block →
    ∃ k : Block, blockFits s.build k ∧
      exec .nextU64 s =
        .next { s with
          block := k
          rsp := okResponse (s.block.word (if s.build.romuKind = .quad then 1 else 0)) } ∧
      (notAllZero s.block → notAllZero k)

/-- 46_remaining.md R193, R194 (reference of variant 6; log entry 9): the new words of every kind, and the words SEED leaves: the
SplitMix fill of `NW(6)` words in index order. -/
def Obligations.ReferenceRomuStepByKind : Prop :=
  ∀ (s : State) (a b c d arg : Word), s.build.variant = .romu → s.build.algorithm = .reference →
    (s.build.romuKind = .quad → s.block = ⟨[a, b, c, d], []⟩ → exec .nextU64 s =
      .next { s with
        block := ⟨[0xd3833e804f4c574b * d, d + a.rotateLeft 52, c - b, (c + a).rotateLeft 19], []⟩, rsp := okResponse b }) ∧
    (s.build.romuKind = .trio → s.block = ⟨[a, b, c], []⟩ → exec .nextU64 s =
      .next { s with
        block := ⟨[0xd3833e804f4c574b * c, (b - a).rotateLeft 12, (c - b).rotateLeft 44], []⟩, rsp := okResponse a }) ∧
    (s.build.romuKind = .duo → s.block = ⟨[a, b], []⟩ → exec .nextU64 s =
      .next { s with
        block := ⟨[0xd3833e804f4c574b * b, b.rotateLeft 36 + b.rotateLeft 15 - a], []⟩, rsp := okResponse a }) ∧
    (s.build.romuKind = .duoJr → s.block = ⟨[a, b], []⟩ → exec .nextU64 s =
      .next { s with block := ⟨[0xd3833e804f4c574b * b, (b - a).rotateLeft 27], []⟩, rsp := okResponse a }) ∧
    (s.build.romuKind = .quad → exec (.seed arg) s = .next { s with block := ⟨smFill arg 4, []⟩, rsp := okResponse 0 }) ∧
    (s.build.romuKind = .trio → exec (.seed arg) s = .next { s with block := ⟨smFill arg 3, []⟩, rsp := okResponse 0 }) ∧
    (s.build.romuKind = .duo ∨ s.build.romuKind = .duoJr →
      exec (.seed arg) s = .next { s with block := ⟨smFill arg 2, []⟩, rsp := okResponse 0 })

/-- 46_remaining.md R196 (reference of variant 7; log entries 9, 26): the new value replaces `T[i]`, no other entry changes, both
cursors advance modulo 64, and the output is the build's output function of the new value, whatever LFIB_OP and that function
are. With the reference LFIB_OP the new value is the product, and odd entries stay odd; with the reference output function it is
the output. -/
def Obligations.ReferenceLfibReplacesOneEntry : Prop :=
  ∀ (s : State) (i j : Cursor), s.build.variant = .lfib → s.build.algorithm = .reference → blockFits s.build s.block →
    s.block.cursors = [i, j] →
    ∃ (k : Block) (v : Word), v = lfibCombine s.build (s.block.word i.val) (s.block.word j.val) ∧
      exec .nextU64 s = .next { s with block := k, rsp := okResponse (lfibOutput s.build v) } ∧ blockFits s.build k ∧
      k.word i.val = v ∧ (∀ n, n ≠ i.val → k.word n = s.block.word n) ∧
      (k.cursor 0).val = (i.val + 1) % 64 ∧ (k.cursor 1).val = (j.val + 1) % 64 ∧
      (s.build.lfibOp = .mul → v = s.block.word i.val * s.block.word j.val ∧
        (allOdd s.block → allOdd k ∧ v.getLsbD 0 = true)) ∧
      (s.build.lfibOut = .newEntry → lfibOutput s.build v = v)

/-- 46_remaining.md R197 (reference of variant 7): SEED fills the table with odd words and sets the cursors to 0 and
LFIB_D. -/
def Obligations.ReferenceLfibSeed : Prop :=
  ∀ (arg : Word) (s : State), s.build.variant = .lfib → s.build.algorithm = .reference →
    ∃ t, exec (.seed arg) s = .next t ∧ t.rsp = okResponse 0 ∧ t.build = s.build ∧ t.inbox = s.inbox ∧
      t.block.words.length = 64 ∧ t.block.cursors = [0, s.build.lfibD] ∧
      ∀ n, n < 64 → t.block.word n = smMix (arg + BitVec.ofNat 64 (n + 1) * 0x9e3779b97f4a7c15) ||| 1

/-- 46_remaining.md R200, R201 (reference of variant 8): the new pair is `MWC_A * x + c`, exactly, split into low and high
half; the output is the pre-update `x`. -/
def Obligations.ReferenceMwcSplitsTheExactSum : Prop :=
  (∀ (s : State) (x c : Word), s.build.variant = .mwc → s.build.algorithm = .reference → s.block = ⟨[x, c], []⟩ →
    ∃ x' c' : Word, exec .nextU64 s = .next { s with block := ⟨[x', c'], []⟩, rsp := okResponse x } ∧
      c'.toNat * 2 ^ 64 + x'.toNat = 0xffebb71d94fcdaf9 * x.toNat + c.toNat) ∧
  (∀ (s : State) (arg : Word), s.build.variant = .mwc → s.build.algorithm = .reference →
    exec (.seed arg) s =
      .next { s with block := ⟨[smMix (arg + 0x9e3779b97f4a7c15), 1], []⟩, rsp := okResponse 0 })

/-- 46_remaining.md R203, R204 (reference of variant 9): the step, and that SEED is the published start followed by twelve
steps with their outputs dropped. -/
def Obligations.ReferenceSfcStepAndSeed : Prop :=
  (∀ (s : State) (a b c n : Word), s.build.variant = .sfc → s.build.algorithm = .reference →
    s.block = ⟨[a, b, c, n], []⟩ →
    exec .nextU64 s =
      .next { s with
        block := ⟨[b ^^^ (b >>> 11), c + (c <<< 3), c.rotateLeft 24 + (a + b + n), n + 1], []⟩
        rsp := okResponse (a + b + n) }) ∧
  (∀ (s : State) (arg : Word), s.build.variant = .sfc → s.build.algorithm = .reference →
    ∃ t u : State,
      execAll (List.replicate 12 .nextU64) { s with block := ⟨[arg, arg, arg, 1], []⟩ } = .next t ∧
      exec (.seed arg) s = .next u ∧ u.block = t.block ∧ u.rsp = okResponse 0 ∧ u.build = s.build ∧ u.inbox = s.inbox ∧
      u.block.word 3 = 13)

/-! ## Reset behaviour and golden vectors -/

/-- 10_state.md R42, rows 2, 6, 7, 8 (references): from the reset state every NEXT_U64 returns 0, however many are sent. -/
def Obligations.DegenerateResetStatesReturnZeroForEver : Prop :=
  ∀ (b : Build) (n : Nat),
    (b.variant = .rsx256 ∨
      (b.algorithm = .reference ∧ (b.variant = .romu ∨ b.variant = .mwc ∨
        (b.variant = .lfib ∧ b.lfibOp = .mul ∧ b.lfibOut = .newEntry)))) →
    ∃ t, execAll (List.replicate (n + 1) .nextU64) (State.resetOf b) = .next t ∧ t.rsp = okResponse 0 ∧
      ∀ i, t.block.word i = 0

/-- RNGGO §8, the three golden vectors (95_test_vectors.md S1, S2, S3), on every build of their variant. -/
def Obligations.GoldenVectorsOfTheSource : Prop :=
  (∀ b : Build, b.variant = .rsx256 → ∃ t,
    execAll [.loadState 0 1, .loadState 1 2, .loadState 2 3, .loadState 3 4, .nextU64] (State.resetOf b) = .next t ∧
      t.rsp = okResponse 0x2d00) ∧
  (∀ b : Build, b.variant = .pcg32 → ∃ t₁ t₂ t₃,
    exec .nextU32 (State.resetOf b) = .next t₁ ∧ t₁.rsp = okResponse 0x00000000 ∧
    exec .nextU32 t₁ = .next t₂ ∧ t₂.rsp = okResponse 0x602bf3fd ∧
    exec .nextU32 t₂ = .next t₃ ∧ t₃.rsp = okResponse 0xe823a24e) ∧
  (∀ b : Build, b.variant = .splitmix → ∃ t₀ t₁ t₂ t₃,
    exec (.seed 0) (State.resetOf b) = .next t₀ ∧
    exec .nextU64 t₀ = .next t₁ ∧ t₁.rsp = okResponse 0xe220a8397b1dcdaf ∧
    exec .nextU64 t₁ = .next t₂ ∧ t₂.rsp = okResponse 0x6e789e6aa1b965f4 ∧
    exec .nextU64 t₂ = .next t₃ ∧ t₃.rsp = okResponse 0x06c45d188009454f)

/-! ## Several instances -/

/-- 60_exceptions.md R233: instances share nothing: a step of one leaves every other as it was, and steps of two different
instances commute. -/
def Obligations.InstancesShareNothing : Prop :=
  (∀ (sys : System) (k j : Nat), j ≠ k → (sys.stepAt k)[j]? = sys[j]?) ∧
  (∀ (sys : System) (k : Nat) (s : State), sys[k]? = some s → ∃ t, step s = .next t ∧ (sys.stepAt k)[k]? = some t) ∧
  (∀ (sys : System) (k j : Nat), j ≠ k → (sys.stepAt k).stepAt j = (sys.stepAt j).stepAt k)

/-- 60_exceptions.md R236: the pseudo-instruction STREAM leaves, on variant 2, the seeded state advanced by `k` jumps of 2^128
steps each. -/
def Obligations.StreamIsTheSeededStateJumpedAhead : Prop :=
  ∀ (s : State) (seed : Word) (k n : Nat) (is : List Instr), s.build.variant = .rsx256 → n = 2 ^ 128 →
    Pseudo.expand s.build (.stream seed k) = some is →
    ∃ t, execAll is s = .next t ∧ t.rsp = okResponse 0 ∧
      t.block = blockOfRsx (rsxUpdate^[k * n] (rsxOfBlock (seedFn s.build seed)))
end

