-- ==== Sys2Proof/Laws/State.lean ====
section
/-! SUPPORT. What each update of State leaves in each field, and when a step reads what. -/

namespace Sys2Proof.Machine

@[simp] theorem respond_build (x d s) : (respond x d s).build = s.build := rfl
@[simp] theorem respond_block (x d s) : (respond x d s).block = s.block := rfl
@[simp] theorem respond_inbox (x d s) : (respond x d s).inbox = s.inbox := rfl
@[simp] theorem respond_rsp (x d s) : (respond x d s).rsp = some ⟨x, d⟩ := rfl

@[simp] theorem complete_build (k d s) : (complete k d s).build = s.build := rfl
@[simp] theorem complete_block (k d s) : (complete k d s).block = k := rfl
@[simp] theorem complete_inbox (k d s) : (complete k d s).inbox = s.inbox := rfl
@[simp] theorem complete_rsp (k d s) : (complete k d s).rsp = some ⟨.ok, d⟩ := rfl

@[simp] theorem raise_build (x s) : (raise x s).build = s.build := rfl
@[simp] theorem raise_block (x s) : (raise x s).block = s.block := rfl
@[simp] theorem raise_inbox (x s) : (raise x s).inbox = s.inbox := rfl
@[simp] theorem raise_rsp (x s) : (raise x s).rsp = some ⟨x, 0⟩ := rfl

@[simp] theorem noResponse_build (s) : (noResponse s).build = s.build := rfl
@[simp] theorem noResponse_block (s) : (noResponse s).block = s.block := rfl
@[simp] theorem noResponse_inbox (s) : (noResponse s).inbox = s.inbox := rfl
@[simp] theorem noResponse_rsp (s) : (noResponse s).rsp = none := rfl

@[simp] theorem hardReset_build (s) : (hardReset s).build = s.build := rfl
@[simp] theorem hardReset_block (s) : (hardReset s).block = resetBlock s.build := rfl
@[simp] theorem hardReset_inbox (s) : (hardReset s).inbox = s.inbox := rfl
@[simp] theorem hardReset_rsp (s) : (hardReset s).rsp = none := rfl

@[simp] theorem presentFirst_build (w s) : (presentFirst w s).build = s.build := rfl
@[simp] theorem presentFirst_block (w s) : (presentFirst w s).block = s.block := rfl
@[simp] theorem presentFirst_inbox (w s) : (presentFirst w s).inbox = .command w :: s.inbox := rfl
@[simp] theorem presentFirst_rsp (w s) : (presentFirst w s).rsp = s.rsp := rfl

@[simp] theorem resetOf_build (b) : (State.resetOf b).build = b := rfl
@[simp] theorem resetOf_block (b) : (State.resetOf b).block = resetBlock b := rfl
@[simp] theorem resetOf_inbox (b) : (State.resetOf b).inbox = [] := rfl
@[simp] theorem resetOf_rsp (b) : (State.resetOf b).rsp = none := rfl

@[simp] theorem feed_build (ws s) : (feed ws s).build = s.build := rfl
@[simp] theorem feed_block (ws s) : (feed ws s).block = s.block := rfl
@[simp] theorem feed_inbox (ws s) : (feed ws s).inbox = ws.map .command := rfl
@[simp] theorem feed_rsp (ws s) : (feed ws s).rsp = s.rsp := rfl

@[simp] theorem variantId_eq (s : State) : s.variantId = variantNumber s.build.variant := rfl

/-- A step performs the first host action on the state whose inbox has moved on. -/
theorem step_of_inbox {s : State} {a : HostAction} {rest : List HostAction} (h : s.inbox = a :: rest) :
    step s = perform a { s with inbox := rest } := by
  simp [step, takeAction, h]

/-- A step with an empty inbox is an idle cycle. -/
theorem step_of_inbox_nil {s : State} (h : s.inbox = []) : step s = .next (noResponse s) := by
  simp [step, takeAction, h, perform]

end Sys2Proof.Machine
end

