-- ==== Sys2Proof/Laws/Ops.lean ====
section
/-! SUPPORT. What each shared operation can do, said once: the shape of every block a command leaves, and the two ways a
command ends. -/

namespace Sys2Proof.Machine

/-! ## Shapes -/

@[simp] theorem smFill_length (smt : Word) (n : Nat) : (smFill smt n).length = n := by
  induction n generalizing smt with
  | zero => rfl
  | succ n ih => simp [smFill, ih]

/-- The k-th word of a fill is the mix of the seed advanced `k + 1` times. -/
theorem smFill_getElem? (smt : Word) (n k : Nat) (h : k < n) :
    (smFill smt n)[k]? = some (smMix (smt + BitVec.ofNat 64 (k + 1) * smGamma)) := by
  induction n generalizing smt k with
  | zero => omega
  | succ n ih =>
    cases k with
    | zero => simp [smFill, smStep]
    | succ k =>
      have hk : BitVec.ofNat 64 (k + 1 + 1) = BitVec.ofNat 64 (k + 1) + 1#64 := by
        rw [BitVec.ofNat_add]
      simp only [smFill, List.getElem?_cons_succ, smStep]
      rw [ih _ _ (by omega), hk, BitVec.add_mul, BitVec.one_mul, BitVec.add_assoc,
        BitVec.add_comm smGamma]

theorem resetBlock_fits (b : Build) : blockFits b (resetBlock b) := by
  simp [blockFits, resetBlock]

theorem writeIndex_fits {b : Build} {k : Block} (idx : Nat) (arg : Word) (h : blockFits b k) :
    blockFits b (writeIndex b k idx arg) := by
  unfold writeIndex
  split <;> simpa [blockFits] using h

theorem stepOpen_fits (b : Build) (id : Nat) (k : Block) : blockFits b (stepOpen b id k).1 := by
  simp [blockFits, stepOpen]

theorem seedOpen_fits (b : Build) (id : Nat) (arg : Word) : blockFits b (seedOpen b id arg) := by
  simp [blockFits, seedOpen]

theorem stepChosen_fits {b : Build} {f : Block → Block × Word} {k : Block}
    (h : b.algorithm = .reference → blockFits b (f k).1) : blockFits b (stepChosen b f k).1 := by
  unfold stepChosen
  split
  · exact h ‹_›
  · exact stepOpen_fits b _ k

theorem seedChosen_fits {b : Build} {f : Word → Block} {arg : Word}
    (h : b.algorithm = .reference → blockFits b (f arg)) : blockFits b (seedChosen b f arg) := by
  unfold seedChosen
  split
  · exact h ‹_›
  · exact seedOpen_fits b _ arg

theorem sfcDiscard_length (n : Nat) (k : Block) (h : k.words.length = 4 ∧ k.cursors.length = 0) :
    (sfcDiscard n k).words.length = 4 ∧ (sfcDiscard n k).cursors.length = 0 := by
  induction n generalizing k with
  | zero => exact h
  | succ n ih => exact ih _ (by simp [stepSfc])

/-- Every seed leaves a block of the shape of its variant. -/
theorem seedFn_fits (b : Build) (arg : Word) : blockFits b (seedFn b arg) := by
  unfold seedFn
  split <;> rename_i hv
  · simp only [blockFits, nw, nc, hv, seedLcg128]; split <;> simp [blockOfPair]
  · simp [blockFits, nw, nc, hv, seedSplitMix]
  · simp [blockFits, nw, nc, hv, seedRsx256, blockOfFill]
  · simp [blockFits, nw, nc, hv, seedPcg32, blockOfWord]
  · simp only [blockFits, nw, nc, hv, seedPcg64]; split <;> simp [blockOfPair]
  · exact seedChosen_fits fun ha => by simp [blockFits, nw, nc, hv, ha, algorithmWords, seedMsws, blockOfFill]
  · exact seedChosen_fits fun ha => by simp [blockFits, nw, nc, hv, ha, algorithmWords, seedRomu, blockOfFill]
  · exact seedChosen_fits fun _ => by simp [blockFits, nw, nc, hv, seedLfib]
  · exact seedChosen_fits fun ha => by simp [blockFits, nw, nc, hv, ha, algorithmWords, seedMwc]
  · refine seedChosen_fits fun ha => ?_
    have h := sfcDiscard_length sfcWarmUp { words := [arg, arg, arg, 1], cursors := [] } (by simp)
    simpa [blockFits, nw, nc, hv, ha, algorithmWords, seedSfc] using h

/-- Every step of a generator leaves a block of the shape of its variant; only variant 7 needs the old one to have it. -/
theorem stepFn_fits {b : Build} {k : Block} (h : blockFits b k) : blockFits b (stepFn b k).1 := by
  unfold stepFn
  split <;> rename_i hv
  · simp [blockFits, nw, nc, hv, stepLcg128, blockOfPair]
  · simp [blockFits, nw, nc, hv, stepSplitMix]
  · simp [blockFits, nw, nc, hv, stepRsx256, blockOfRsx]
  · simp [blockFits, nw, nc, hv, stepPcg32, blockOfWord]
  · simp [blockFits, nw, nc, hv, stepPcg64, blockOfPair]
  · exact stepChosen_fits fun ha => by simp [blockFits, nw, nc, hv, ha, algorithmWords, stepMsws]
  · refine stepChosen_fits fun ha => ?_
    simp only [blockFits, nw, nc, hv, ha, algorithmWords, stepRomu]
    cases b.romuKind <;> simp [romuWords, stepRomuQuad, stepRomuTrio, stepRomuDuo, stepRomuDuoJr]
  · refine stepChosen_fits fun _ => ?_
    simp only [blockFits, nw, nc, hv] at h
    simpa [blockFits, nw, nc, hv, stepLfib] using h.1
  · exact stepChosen_fits fun ha => by simp [blockFits, nw, nc, hv, ha, algorithmWords, stepMwc]
  · exact stepChosen_fits fun ha => by simp [blockFits, nw, nc, hv, ha, algorithmWords, stepSfc]

/-! ## Which variants implement what -/

@[simp] theorem hasU32_iff (b : Build) : hasU32 b = true ↔ b.variant = .pcg32 := by simp [hasU32]

@[simp] theorem hasU32_false_iff (b : Build) : hasU32 b = false ↔ b.variant ≠ .pcg32 := by simp [hasU32]

@[simp] theorem hasJump_iff (b : Build) : hasJump b = true ↔ b.variant = .rsx256 := by simp [hasJump]

@[simp] theorem hasJump_false_iff (b : Build) : hasJump b = false ↔ b.variant ≠ .rsx256 := by simp [hasJump]

/-! ## The ways a command ends -/

/-- A command either completes with a new block and a data value, or is turned away with a status other than OK
(40_common_interface.md R100). -/
theorem exec_ends (i : Instr) (s : State) :
    (∃ k d, exec i s = .next (complete k d s)) ∨ ∃ x, x ≠ .ok ∧ exec i s = .next (raise x s) := by
  cases i with
  | seed arg => exact .inl ⟨_, _, rfl⟩
  | nextU64 => exact .inl ⟨_, _, rfl⟩
  | nextI63 => exact .inl ⟨_, _, rfl⟩
  | nextU32 =>
    simp only [exec, execNextU32]
    split
    · exact .inl ⟨_, _, rfl⟩
    · exact .inr ⟨.unsupported, by decide, rfl⟩
  | jump =>
    simp only [exec, execJump, jumpBy]
    split
    · exact .inl ⟨_, _, rfl⟩
    · exact .inr ⟨.unsupported, by decide, rfl⟩
  | longJump =>
    simp only [exec, execLongJump, jumpBy]
    split
    · exact .inl ⟨_, _, rfl⟩
    · exact .inr ⟨.unsupported, by decide, rfl⟩
  | loadState idx arg =>
    simp only [exec, execLoadState]
    split
    · exact .inl ⟨_, _, rfl⟩
    · exact .inr ⟨.badIndex, by decide, rfl⟩
  | readState idx =>
    simp only [exec, execReadState]
    split
    · exact .inl ⟨_, _, rfl⟩
    · exact .inr ⟨.badIndex, by decide, rfl⟩

/-- A command that completes leaves a block of the shape of its variant. -/
theorem exec_fits {i : Instr} {s t : State} (h : blockFits s.build s.block) (ht : exec i s = .next t) :
    blockFits s.build t.block := by
  cases i with
  | seed arg => cases ht; exact seedFn_fits _ _
  | nextU64 => cases ht; exact stepFn_fits h
  | nextI63 => cases ht; exact stepFn_fits h
  | nextU32 =>
    simp only [exec, execNextU32] at ht
    split at ht <;> cases ht
    · rename_i hv
      simp only [hasU32, beq_iff_eq] at hv
      simp [blockFits, nw, nc, hv, stepPcg32Half, blockOfWord]
    · exact h
  | jump =>
    simp only [exec, execJump, jumpBy] at ht
    split at ht <;> cases ht
    · rename_i hv
      simp only [hasJump, beq_iff_eq] at hv
      simp [blockFits, nw, nc, hv, blockOfRsx]
    · exact h
  | longJump =>
    simp only [exec, execLongJump, jumpBy] at ht
    split at ht <;> cases ht
    · rename_i hv
      simp only [hasJump, beq_iff_eq] at hv
      simp [blockFits, nw, nc, hv, blockOfRsx]
    · exact h
  | loadState idx arg =>
    simp only [exec, execLoadState] at ht
    split at ht <;> cases ht
    · exact writeIndex_fits _ _ h
    · exact h
  | readState idx =>
    simp only [exec, execReadState] at ht
    split at ht <;> cases ht <;> exact h

/-! ## The step and the seed function of each variant, for the build that names it -/

theorem stepFn_lcg128 (b : Build) (k : Block) (h : b.variant = .lcg128) : stepFn b k = stepLcg128 b k := by
  simp only [stepFn, h]

theorem seedFn_lcg128 (b : Build) (arg : Word) (h : b.variant = .lcg128) : seedFn b arg = seedLcg128 b arg := by
  simp only [seedFn, h]

theorem stepFn_splitmix (b : Build) (k : Block) (h : b.variant = .splitmix) : stepFn b k = stepSplitMix k := by
  simp only [stepFn, h]

theorem seedFn_splitmix (b : Build) (arg : Word) (h : b.variant = .splitmix) : seedFn b arg = seedSplitMix arg := by
  simp only [seedFn, h]

theorem stepFn_rsx256 (b : Build) (k : Block) (h : b.variant = .rsx256) : stepFn b k = stepRsx256 k := by
  simp only [stepFn, h]

theorem seedFn_rsx256 (b : Build) (arg : Word) (h : b.variant = .rsx256) : seedFn b arg = seedRsx256 arg := by
  simp only [seedFn, h]

theorem stepFn_pcg32 (b : Build) (k : Block) (h : b.variant = .pcg32) : stepFn b k = stepPcg32 k := by
  simp only [stepFn, h]

theorem seedFn_pcg32 (b : Build) (arg : Word) (h : b.variant = .pcg32) : seedFn b arg = seedPcg32 b arg := by
  simp only [seedFn, h]

theorem stepFn_pcg64 (b : Build) (k : Block) (h : b.variant = .pcg64) : stepFn b k = stepPcg64 b k := by
  simp only [stepFn, h]

theorem seedFn_pcg64 (b : Build) (arg : Word) (h : b.variant = .pcg64) : seedFn b arg = seedPcg64 b arg := by
  simp only [seedFn, h]

theorem stepFn_msws_reference (b : Build) (k : Block) (h : b.variant = .msws) (ha : b.algorithm = .reference) :
    stepFn b k = stepMsws k := by
  simp only [stepFn, h, stepChosen, ha]

theorem seedFn_msws_reference (b : Build) (arg : Word) (h : b.variant = .msws) (ha : b.algorithm = .reference) :
    seedFn b arg = seedMsws arg := by
  simp only [seedFn, h, seedChosen, ha]

theorem stepFn_romu_reference (b : Build) (k : Block) (h : b.variant = .romu) (ha : b.algorithm = .reference) :
    stepFn b k = stepRomu b.romuKind k := by
  simp only [stepFn, h, stepChosen, ha]

theorem seedFn_romu_reference (b : Build) (arg : Word) (h : b.variant = .romu) (ha : b.algorithm = .reference) :
    seedFn b arg = seedRomu b.romuKind arg := by
  simp only [seedFn, h, seedChosen, ha]

theorem stepFn_lfib_reference (b : Build) (k : Block) (h : b.variant = .lfib) (ha : b.algorithm = .reference) :
    stepFn b k = stepLfib b k := by
  simp only [stepFn, h, stepChosen, ha]

theorem seedFn_lfib_reference (b : Build) (arg : Word) (h : b.variant = .lfib) (ha : b.algorithm = .reference) :
    seedFn b arg = seedLfib b arg := by
  simp only [seedFn, h, seedChosen, ha]

theorem stepFn_mwc_reference (b : Build) (k : Block) (h : b.variant = .mwc) (ha : b.algorithm = .reference) :
    stepFn b k = stepMwc k := by
  simp only [stepFn, h, stepChosen, ha]

theorem seedFn_mwc_reference (b : Build) (arg : Word) (h : b.variant = .mwc) (ha : b.algorithm = .reference) :
    seedFn b arg = seedMwc arg := by
  simp only [seedFn, h, seedChosen, ha]

theorem stepFn_sfc_reference (b : Build) (k : Block) (h : b.variant = .sfc) (ha : b.algorithm = .reference) :
    stepFn b k = stepSfc k := by
  simp only [stepFn, h, stepChosen, ha]

theorem seedFn_sfc_reference (b : Build) (arg : Word) (h : b.variant = .sfc) (ha : b.algorithm = .reference) :
    seedFn b arg = seedSfc arg := by
  simp only [seedFn, h, seedChosen, ha]

/-- `LFIB_OP` at the reference. -/
theorem lfibCombine_mul {b : Build} (h : b.lfibOp = .mul) (x y : Word) : lfibCombine b x y = x * y := by
  simp only [lfibCombine, h]

/-- The output function of variant 7 at the reference. -/
theorem lfibOutput_newEntry {b : Build} (h : b.lfibOut = .newEntry) (v : Word) : lfibOutput b v = v := by
  simp only [lfibOutput, h]

/-- The numeric value of a carry. -/
@[simp] theorem carryWord_toNat (c : Bool) : (carryWord c).toNat = c.toNat := by cases c <;> rfl

/-- The numeric value of a pair of halves (10_state.md R22). -/
theorem wide_toNat (h l : Word) : (wide h l).toNat = h.toNat * 2 ^ 64 + l.toNat := by
  unfold wide
  rw [BitVec.toNat_append, Nat.shiftLeft_eq, Nat.mul_comm, Nat.two_pow_add_eq_or_of_lt l.isLt]

/-! ## The primitives in the library's terms -/

/-- The model's rotate of 64 bits is the library's, for every count the spec allows (00_scope.md R13). -/
theorem rotl64_eq_rotateLeft (x : Word) (k : Nat) (h : k < 64) : rotl64 x k = x.rotateLeft k := by
  unfold rotl64
  split
  · subst_vars
    have h0 : x >>> 64 = 0#64 := by ext i hi; simp
    simp [BitVec.rotateLeft, BitVec.rotateLeftAux, h0]
  · rw [BitVec.rotateLeft, Nat.mod_eq_of_lt h, BitVec.rotateLeftAux]

@[simp] theorem wide_halves (v : Wide) : wide (wideHi v) (wideLo v) = v := by
  simp only [wide, wideHi, wideLo]
  ext i hi
  simp only [BitVec.getElem_append, BitVec.getElem_extractLsb']
  split
  · simp [BitVec.getLsbD_eq_getElem hi]
  · rename_i h
    have : 64 + (i - 64) = i := by omega
    simp [this, BitVec.getLsbD_eq_getElem hi]

end Sys2Proof.Machine
end

