-- ==== Sys2Proof/Laws/PerInstr.lean ====
section
/-! SUPPORT. Laws made per command: the word of every well-formed command is selected by the row of its mnemonic
(30_encoding.md R74), and its reserved field is zero (R72). -/

namespace Sys2Proof.Laws.OwnRow

/-- The word of `i` has `rsv` zero, and the row of `i`'s opcode selects it. -/
def Statement (i : Instr) : Prop :=
  fieldRsv (encode i) = 0 ∧ ∃ r ∈ opcodeRows, r.opcode = i.opcode ∧ r.selects (encode i) = true

/-- The reserved field of an assembled word is zero. -/
theorem fieldRsv_assembleWord (op : BitVec 4) (idx : BitVec 7) (arg : Word) :
    fieldRsv (assembleWord op idx arg) = 0 := by
  simp only [fieldRsv, assembleWord]
  ext i hi
  simp only [BitVec.getElem_extractLsb', BitVec.getLsbD_append]
  have h1 : ¬ (71 + i < 64) := by omega
  have h2 : ¬ (71 + i - 64 < 7) := by omega
  have h3 : 71 + i - 64 - 7 < 5 := by omega
  simp [h1, h2, h3]

/-- The bitwise and of two concatenations of the same shape goes part by part. -/
theorem append_and_append {m n : Nat} (x a : BitVec m) (y b : BitVec n) :
    (x ++ y) &&& (a ++ b) = (x &&& a) ++ (y &&& b) := by
  ext i hi
  simp only [BitVec.getElem_and, BitVec.getElem_append]
  split <;> rfl

/-- A mask given field by field selects from an assembled word field by field. -/
theorem and_fields (op mo : BitVec 4) (mr : BitVec 5) (idx mi : BitVec 7) (arg ma : Word) :
    assembleWord op idx arg &&& (mo ++ mr ++ mi ++ ma) =
      (op &&& mo) ++ ((0 : BitVec 5) &&& mr) ++ (idx &&& mi) ++ (arg &&& ma) := by
  have h1 := append_and_append op mo (0 : BitVec 5) mr
  have h2 := append_and_append (op ++ (0 : BitVec 5)) (mo ++ mr) idx mi
  exact (append_and_append (op ++ (0 : BitVec 5) ++ idx) (mo ++ mr ++ mi) arg ma).trans (by rw [h2, h1])

theorem seed (arg : Word) : Statement (.seed arg) := by
  refine ⟨fieldRsv_assembleWord _ _ _, ⟨.seed, 0x10000000000000000000, 0xFFFF0000000000000000⟩, by decide, rfl, ?_⟩
  have h := and_fields 1 15 31 0 127 arg 0
  rw [show arg &&& 0 = 0 from BitVec.and_zero] at h
  exact beq_iff_eq.mpr h

theorem nextU64 : Statement .nextU64 :=
  ⟨fieldRsv_assembleWord _ _ _, ⟨.nextU64, 0x20000000000000000000, 0xFFFFFFFFFFFFFFFFFFFF⟩, by decide, rfl, by decide⟩

theorem nextI63 : Statement .nextI63 :=
  ⟨fieldRsv_assembleWord _ _ _, ⟨.nextI63, 0x30000000000000000000, 0xFFFFFFFFFFFFFFFFFFFF⟩, by decide, rfl, by decide⟩

theorem nextU32 : Statement .nextU32 :=
  ⟨fieldRsv_assembleWord _ _ _, ⟨.nextU32, 0x40000000000000000000, 0xFFFFFFFFFFFFFFFFFFFF⟩, by decide, rfl, by decide⟩

theorem jump : Statement .jump :=
  ⟨fieldRsv_assembleWord _ _ _, ⟨.jump, 0x50000000000000000000, 0xFFFFFFFFFFFFFFFFFFFF⟩, by decide, rfl, by decide⟩

theorem longJump : Statement .longJump :=
  ⟨fieldRsv_assembleWord _ _ _, ⟨.longJump, 0x60000000000000000000, 0xFFFFFFFFFFFFFFFFFFFF⟩, by decide, rfl, by decide⟩

theorem loadState (idx : Nat) (arg : Word) : Statement (.loadState idx arg) := by
  refine ⟨fieldRsv_assembleWord _ _ _, ⟨.loadState, 0x70000000000000000000, 0xFF800000000000000000⟩, by decide, rfl, ?_⟩
  have h := and_fields 7 15 31 (BitVec.ofNat 7 idx) 0 arg 0
  rw [show arg &&& 0 = 0 from BitVec.and_zero, show BitVec.ofNat 7 idx &&& 0 = 0 from BitVec.and_zero] at h
  exact beq_iff_eq.mpr h

theorem readState (idx : Nat) : Statement (.readState idx) := by
  refine ⟨fieldRsv_assembleWord _ _ _, ⟨.readState, 0x80000000000000000000, 0xFF80FFFFFFFFFFFFFFFF⟩, by decide, rfl, ?_⟩
  have h := and_fields 8 15 31 (BitVec.ofNat 7 idx) 0 0 (BitVec.allOnes 64)
  rw [show BitVec.ofNat 7 idx &&& 0 = 0 from BitVec.and_zero] at h
  exact beq_iff_eq.mpr h

end Sys2Proof.Laws.OwnRow
end

