-- ==== Sys2Proof/Machine/Asm.lean ====
section
/-! DEFINITION. The assembler syntax of 30_encoding.md R79, as a parser of one line, and the listing form of a command word.
A line is a list of characters. What R79 leaves open of the notation is log entry 22. -/

namespace Sys2Proof.Machine

/-- The value of a digit in the given base, `0x` digits in either case. -/
def digitValue (base : Nat) (c : Char) : Option Nat :=
  let n := c.toNat
  let v :=
    if 48 ≤ n ∧ n ≤ 57 then n - 48
    else if 97 ≤ n ∧ n ≤ 102 then n - 87
    else if 65 ≤ n ∧ n ≤ 70 then n - 55
    else base
  if v < base then some v else none

/-- Digits read from the left onto `acc`. -/
def digitsOnto (base acc : Nat) : List Char → Option Nat
  | [] => some acc
  | c :: cs =>
    match digitValue base c with
    | none => none
    | some v => digitsOnto base (acc * base + v) cs

/-- A non-empty string of digits. -/
def readDigits (base : Nat) (cs : List Char) : Option Nat :=
  if cs.isEmpty then none else digitsOnto base 0 cs

/-- A number without sign: hexadecimal with `0x`, else decimal (R79). -/
def readNumber : List Char → Option Nat
  | '0' :: 'x' :: cs => readDigits 16 cs
  | cs => readDigits 10 cs

/-- A number that fits 64 bits. -/
def readWord (cs : List Char) : Option Word :=
  match readNumber cs with
  | some n => if n < 2 ^ 64 then some (BitVec.ofNat 64 n) else none
  | none => none

/-- The operand of SEED: a leading `-` on a decimal number means the two's-complement pattern (R79, R73). -/
def readSeed : List Char → Option Word
  | '-' :: cs =>
    match readDigits 10 cs with
    | some n => if n ≤ 2 ^ 63 then some (-(BitVec.ofNat 64 n)) else none
    | none => none
  | cs => readWord cs

/-- A state index: a number that fits 7 bits. -/
def readIdx (cs : List Char) : Option Nat :=
  match readNumber cs with
  | some n => if idxFits n then some n else none
  | none => none

/-- Everything before the first `;` (R79). -/
def stripComment (cs : List Char) : List Char := cs.takeWhile (fun c => c != ';')

/-- Blank characters. -/
def isBlank (c : Char) : Bool := c == ' ' || c == '\t'

/-- Without blanks at either end. -/
def trim (cs : List Char) : List Char :=
  ((cs.dropWhile isBlank).reverse.dropWhile isBlank).reverse

/-- The pieces between commas. -/
def splitCommas : List Char → List (List Char)
  | [] => [[]]
  | c :: cs =>
    if c == ',' then [] :: splitCommas cs
    else
      match splitCommas cs with
      | [] => [[c]]
      | p :: ps => (c :: p) :: ps

/-- The operands after a mnemonic. -/
def readOperands (cs : List Char) : List (List Char) :=
  if (trim cs).isEmpty then [] else (splitCommas cs).map trim

/-- The row a mnemonic names, in capitals as R74 prints it. -/
def readMnemonic (cs : List Char) : Option Opcode :=
  if cs = "SEED".toList then some .seed
  else if cs = "NEXT_U64".toList then some .nextU64
  else if cs = "NEXT_I63".toList then some .nextI63
  else if cs = "NEXT_U32".toList then some .nextU32
  else if cs = "JUMP".toList then some .jump
  else if cs = "LONG_JUMP".toList then some .longJump
  else if cs = "LOAD_STATE".toList then some .loadState
  else if cs = "READ_STATE".toList then some .readState
  else none

/-- A command from its row and its operands, `idx` before `arg` (R79). -/
def buildInstr (o : Opcode) (ops : List (List Char)) : Option Instr :=
  match o, ops with
  | .seed, [a] => (readSeed a).map .seed
  | .nextU64, [] => some .nextU64
  | .nextI63, [] => some .nextI63
  | .nextU32, [] => some .nextU32
  | .jump, [] => some .jump
  | .longJump, [] => some .longJump
  | .loadState, [i, a] =>
    match readIdx i, readWord a with
    | some idx, some arg => some (.loadState idx arg)
    | _, _ => none
  | .readState, [i] => (readIdx i).map .readState
  | _, _ => none

/-- The `v<n>:` prefix of a line, if there is one: the variant's number and the rest (R79). -/
def readPrefix : List Char → Option Nat × List Char
  | 'v' :: d :: ':' :: cs =>
    match digitValue 10 d with
    | some n => (some n, cs)
    | none => (none, 'v' :: d :: ':' :: cs)
  | cs => (none, cs)

/-- What a line says (R79): for which variant, if it says so, and which command, if it holds one. -/
structure AsmLine where
  variant : Option Nat
  instr : Option Instr
deriving DecidableEq, Repr

/-- One line of assembler text (R79); none where it is not of R79's form. -/
def parseLine (line : List Char) : Option AsmLine :=
  let p := readPrefix (trim (stripComment line))
  let body := trim p.2
  if body.isEmpty then some { variant := p.1, instr := none }
  else
    match readMnemonic (body.takeWhile (fun c => !isBlank c)) with
    | none => none
    | some o =>
      match buildInstr o (readOperands (body.dropWhile (fun c => !isBlank c))) with
      | none => none
      | some i => some { variant := p.1, instr := some i }

/-- One hexadecimal digit. -/
def hexDigit (n : Nat) : Char := Char.ofNat (if n % 16 < 10 then 48 + n % 16 else 87 + n % 16)

/-- `n` hexadecimal digits of a number, most significant first. -/
def hexDigits : Nat → Nat → List Char
  | 0, _ => []
  | n + 1, v => hexDigits n (v / 16) ++ [hexDigit v]

/-- The listing form `hhhh_aaaaaaaaaaaaaaaa` (R79). -/
def listing (w : CmdWord) : List Char :=
  hexDigits 4 (w.toNat / 2 ^ 64) ++ ['_'] ++ hexDigits 16 (w.toNat % 2 ^ 64)

end Sys2Proof.Machine
end

