-- ==== Sys2Proof/Tests/Slice0.lean ====
section
/-! SUPPORT. The model's own tests. Every expected value is taken from spec/95_test_vectors.md (the section is named beside
the test) or written out by hand from the rule named; then one witness per statement that has hypotheses. -/

namespace Sys2Proof.Tests

open Sys2Proof Sys2Proof.Machine

/-! ## Helpers -/

/-- An instance of variant `v`, reference parameters, holding the given words and cursors. -/
def holding (v : Variant) (words : List Word) (cursors : List Cursor := []) : State :=
  { State.resetOf (referenceBuild v) with block := { words := words, cursors := cursors } }

/-- An instance of variant 6 of the given kind. -/
def romuHolding (kind : RomuKind) (words : List Word) : State :=
  { holding .romu words with build := { referenceBuild .romu with romuKind := kind } }

/-- The block and the response one command leaves. -/
def result (i : Instr) (s : State) : Option (Block × Option Response) :=
  match exec i s with
  | .next t => some (t.block, t.rsp)
  | .fault _ => none
  | .refused _ => none

/-- A command that ends with OK: the words and cursors it leaves, and its data. -/
def okWith (words : List Word) (data : Word) (cursors : List Cursor := []) : Option (Block × Option Response) :=
  some ({ words := words, cursors := cursors }, okResponse data)

/-- A command turned away: the block as it was, the status, data 0. -/
def turnedAway (s : State) (x : Status) : Option (Block × Option Response) :=
  some (s.block, some { status := x, data := 0 })

/-- The block and the response one step leaves. -/
def stepResult (s : State) : Option (Block × Option Response) :=
  match step s with
  | .next t => some (t.block, t.rsp)
  | .fault _ => none
  | .refused _ => none

/-- The golden state of RNGGO §8 on variant 2. -/
def golden : State := holding .rsx256 [1, 2, 3, 4]

/-! ## Well-formedness (30_encoding.md R72, R73) -/

/-- An index that does not fit its seven bits is refused; the largest that fits is not. -/
theorem test_wf_refuses_an_index_of_eight_bits :
    (Instr.loadState 128 0).wf = false ∧ (Instr.readState 128).wf = false ∧
    (Instr.loadState 127 0).wf = true ∧ (Instr.readState 127).wf = true := by decide

/-! ## Decoding: words written out from the fields of R72, `op[79:76] rsv[75:71] idx[70:64] arg[63:0]` -/

theorem test_decode_seed :
    decode 0b0001_00000_0000000_1000000000000000000000000000000000000000000000000000000000000101#80 =
      .ok (.seed 0x8000000000000005) := by decide
theorem test_decode_nextU64 :
    decode 0b0010_00000_0000000_0000000000000000000000000000000000000000000000000000000000000000#80 = .ok .nextU64 := by
  decide
theorem test_decode_nextI63 :
    decode 0b0011_00000_0000000_0000000000000000000000000000000000000000000000000000000000000000#80 = .ok .nextI63 := by
  decide
theorem test_decode_nextU32 :
    decode 0b0100_00000_0000000_0000000000000000000000000000000000000000000000000000000000000000#80 = .ok .nextU32 := by
  decide
theorem test_decode_jump :
    decode 0b0101_00000_0000000_0000000000000000000000000000000000000000000000000000000000000000#80 = .ok .jump := by
  decide
theorem test_decode_longJump :
    decode 0b0110_00000_0000000_0000000000000000000000000000000000000000000000000000000000000000#80 = .ok .longJump := by
  decide
theorem test_decode_loadState :
    decode 0b0111_00000_1000001_0000000000000000000000000000000000000000000000000000000000011111#80 =
      .ok (.loadState 65 31) := by decide
theorem test_decode_readState :
    decode 0b1000_00000_1000000_0000000000000000000000000000000000000000000000000000000000000000#80 =
      .ok (.readState 64) := by decide

/-- The illegal words of 95_test_vectors.md 2.2, each with the field that makes it so. -/
theorem test_decode_illegal_words :
    decode 0x00000000000000000000 = .error .undefinedOp ∧
    decode 0x90000000000000000000 = .error .undefinedOp ∧
    decode 0xf0000000000000000000 = .error .undefinedOp ∧
    decode 0x20000000000000000001 = .error .argNotZero ∧
    decode 0x20010000000000000000 = .error .idxNotZero ∧
    decode 0x10800000000000000000 = .error .reservedNotZero ∧
    decode 0x10010000000000000000 = .error .idxNotZero ∧
    decode 0x70800000000000000005 = .error .reservedNotZero ∧
    decode 0x50000000000000000001 = .error .argNotZero ∧
    decode 0x80640000000000000001 = .error .argNotZero := by decide

/-- The encoder gives the words of 95_test_vectors.md 2.2 and Part 3. -/
theorem test_encode_words :
    [Instr.seed 0xffffffffffffffff, .nextU64, .nextI63, .nextU32, .jump, .longJump, .loadState 64 0x45,
        .readState 3].map encode =
      [0x1000ffffffffffffffff, 0x20000000000000000000, 0x30000000000000000000, 0x40000000000000000000,
        0x50000000000000000000, 0x60000000000000000000, 0x70400000000000000045, 0x80030000000000000000] := by decide

/-- The seed of 95_test_vectors.md 2.9 on the kinds of variant 6 with four and with two words. -/
theorem test_seed_romu_kinds :
    result (.seed 0) (romuHolding .quad [0, 0, 0, 0]) =
      okWith [0xe220a8397b1dcdaf, 0x6e789e6aa1b965f4, 0x06c45d188009454f, 0xf88bb8a8724c81ec] 0 ∧
    result (.seed 0) (romuHolding .duo [0, 0]) = okWith [0xe220a8397b1dcdaf, 0x6e789e6aa1b965f4] 0 := by decide +kernel

/-- A number of more than 80 bits is no command word; only the low `nbits` bits count. -/
theorem test_decodeTableWord :
    decodeTableWord 80 0x70030000000000000004 = some (.loadState 3 4) ∧
    decodeTableWord 80 0 = none ∧
    decodeTableWord 88 (2 ^ 80) = none := by decide

/-! ## The primitives (95_test_vectors.md 2.1) -/

theorem test_mul64x64 :
    mul64x64 0xffffffffffffffff 0xffffffffffffffff = (0xfffffffffffffffe, 1) ∧
    mul64x64 0x8000000000000000 2 = (1, 0) ∧
    mul64x64 0x123456789abcdef0 0x0fedcba987654321 = (0x0121fa00ad77d742, 0x2236d88fe5618cf0) := by decide

theorem test_add64c :
    add64c 0xffffffffffffffff 1 = (0, true) ∧
    add64c 0xffffffffffffffff 0xffffffffffffffff = (0xfffffffffffffffe, true) ∧
    add64c3 0xffffffffffffffff 0xffffffffffffffff true = (0xffffffffffffffff, true) := by decide

theorem test_rotates :
    rotl64 10 7 = 1280 ∧ rotl64 0x8000000000000000 1 = 1 ∧ rotl64 1 45 = 0x0000200000000000 ∧
    rotl64 0x123456789abcdef0 0 = 0x123456789abcdef0 ∧ rotr32 0x80000001 0 = 0x80000001 ∧
    rotr32 0x00004000 1 = 0x00002000 ∧ rotr32 0x00040000 16 = 4 := by decide

/-! ## SEED (95_test_vectors.md 2.4 to 2.9) -/

theorem test_seed_variants_0_to_4 :
    result (.seed 0xffffffffffffffff) (holding .lcg128 [7, 7]) = okWith [0, 0xffffffffffffffff] 0 ∧
    result (.seed 0xffffffffffffffff) (holding .splitmix [7]) = okWith [0xffffffffffffffff] 0 ∧
    result (.seed 0) golden =
      okWith [0xe220a8397b1dcdaf, 0x6e789e6aa1b965f4, 0x06c45d188009454f, 0xf88bb8a8724c81ec] 0 ∧
    result (.seed 1) (holding .pcg32 [7]) = okWith [0x6c576fac43fd007c] 0 ∧
    result (.seed 0xffffffffffffffff) (holding .pcg64 [7, 7]) = okWith [0x7876e68ccc9c17cd, 0xd07f9c1a579a8b0a] 0 := by
  decide +kernel

/-- Variants 5 to 9; of variant 7 the entries 95_test_vectors.md 2.9 lists. -/
theorem test_seed_variants_5_to_9 :
    result (.seed 1) (holding .msws [0, 0, 0, 0]) =
      okWith [0x910a2dec89025cc1, 0xbeeb8da1658eec67, 0xf893a2eefb32555e, 0x71c18690ee42c90b] 0 ∧
    result (.seed 1) (holding .romu [0, 0, 0]) =
      okWith [0x910a2dec89025cc1, 0xbeeb8da1658eec67, 0xf893a2eefb32555e] 0 ∧
    ([0, 1, 31, 63].map (seedLfib (referenceBuild .lfib) 0).word =
        [0xe220a8397b1dcdaf, 0x6e789e6aa1b965f5, 0x377d35dea8e40225, 0xe255b237b8bb18fb] ∧
      (seedLfib (referenceBuild .lfib) 0).cursors = [0, 31]) ∧
    result (.seed 0) (holding .mwc [7, 7]) = okWith [0xe220a8397b1dcdaf, 1] 0 ∧
    result (.seed 1) (holding .sfc [7, 7, 7, 7]) =
      okWith [0x7fa42fbbe2305565, 0xbfdb9c72b3a8a619, 0x439df9af71db897f, 0xd] 0 := by decide +kernel

/-! ## NEXT_U64 (95_test_vectors.md 2.4 to 2.9) -/

theorem test_nextU64_variants_0_to_4 :
    result .nextU64 (holding .lcg128 [0x123456789abcdef0, 0x0fedcba987654321]) =
      okWith [0xb1f061ba3c80b9a8, 0x132f0992c1804f34] 0xb1f061ba3c80b9a8 ∧
    result .nextU64 (holding .splitmix [0xffffffffffffffff]) = okWith [0x9e3779b97f4a7c14] 0xe4d971771b652c20 ∧
    result .nextU64 golden = okWith [7, 0, 0x0000000000040002, 0x0000c00000000000] 0x2d00 ∧
    result .nextU64 (holding .pcg32 [0x14057b7ef767814f]) = okWith [0x9af678222e728119] 0xe823a24e602bf3fd ∧
    result .nextU64 (holding .pcg64 [0x7876e68ccc9c17cd, 0xd07f9c1a579a8b0a]) =
      okWith [0x8353b558dab9ae55, 0x5980b03117a29701] 0xcd1b3954dad30569 := by decide +kernel

/-- Where 95_test_vectors.md 2.9 lists the state after several steps, the first output is checked here and the state after
one step is left to the statements. The wrapped cursor of variant 7 and the carry of variant 8 are its own rows. -/
theorem test_nextU64_variants_5_to_9 :
    ((result .nextU64 (holding .msws [0xe220a8397b1dcdaf, 0x6e789e6aa1b965f4, 0x06c45d188009454f, 0xf88bb8a8724c81ec])).map
      Prod.snd = some (okResponse 0x50eef2fd178fbb54)) ∧
    ((result .nextU64 (romuHolding .quad [1, 2, 3, 4])).map Prod.snd = some (okResponse 2)) ∧
    ((result .nextU64 (holding .lfib (((List.replicate 64 1).set 63 3).set 30 5) [63, 30])) =
      okWith (((List.replicate 64 1).set 63 15).set 30 5) 0xf [0, 31]) ∧
    result .nextU64 (holding .mwc [0xfffffffffffffffe, 0xffebb71d94fcdaf7]) =
      (let t := 0xffebb71d94fcdaf9 * 0xfffffffffffffffe + 0xffebb71d94fcdaf7
       okWith [BitVec.ofNat 64 t, BitVec.ofNat 64 (t / 2 ^ 64)] 0xfffffffffffffffe) ∧
    result .nextU64 (holding .sfc [1, 2, 3, 1]) = okWith [2, 27, 0x3000004, 2] 4 := by decide +kernel

/-! ## NEXT_I63, NEXT_U32 (2.3, 2.8) -/

theorem test_nextI63 :
    result .nextI63 (holding .splitmix [0]) = okWith [0x9e3779b97f4a7c15] 0x7110541cbd8ee6d7 ∧
    result .nextI63 (holding .pcg32 [0x14057b7ef767814f]) = okWith [0x9af678222e728119] 0x7411d1273015f9fe := by
  decide +kernel

theorem test_nextU32 :
    result .nextU32 (holding .pcg32 [0xf800000012345678]) = okWith [0x630d39c415583c67] 0x000f8004 ∧
    result .nextU32 (holding .pcg32 [0xffffffffffffffff]) = okWith [0xbbb38751aad20222] 0xfff00001 ∧
    result .nextU32 golden = turnedAway golden .unsupported := by decide +kernel

/-! ## JUMP, LONG_JUMP (2.7) -/

/-- J2, J3, J4: the bit order of the table, without the large constants. -/
theorem test_jump_bit_order :
    jumpCore [2, 0, 0, 0] ⟨1, 2, 3, 4⟩ = ⟨7, 0, 0x40002, 0x0000c00000000000⟩ ∧
    jumpCore [3, 0, 0, 0] ⟨1, 2, 3, 4⟩ = ⟨6, 2, 0x0000000000040001, 0x0000c00000000004⟩ ∧
    jumpCore [0, 1, 0, 0] ⟨1, 2, 3, 4⟩ =
      ⟨0xca5a91eefde488cc, 0x0ff2edaf078128f3, 0xca1da6acec1bc8dd, 0xa681a13d6cc0f88a⟩ := by decide +kernel

/-- J6. -/
theorem test_jump :
    result .jump golden =
      okWith [0x8c7a153956b5f3d1, 0x701f1a713401d85e, 0x6527f66a65469085, 0x8386b786c4408050] 0 := by decide +kernel

/-- J7. -/
theorem test_longJump :
    result .longJump golden =
      okWith [0x096a8eb71295a400, 0xdbf84991e50f4516, 0x534ee745810d2a0e, 0x31655ca1a2215bf1] 0 := by decide +kernel

/-- On every variant but 2 the jumps are turned away. -/
theorem test_jumps_unsupported :
    result .jump (holding .pcg32 [9]) = turnedAway (holding .pcg32 [9]) .unsupported ∧
    result .longJump (holding .splitmix [9]) = turnedAway (holding .splitmix [9]) .unsupported := by decide

/-! ## LOAD_STATE, READ_STATE (2.2) -/

theorem test_loadState :
    result (.loadState 3 9) golden = okWith [1, 2, 3, 9] 0 ∧
    result (.loadState 4 9) golden = turnedAway golden .badIndex ∧
    result (.loadState 64 0x45) (holding .lfib (List.replicate 64 1) [0, 0]) =
      okWith (List.replicate 64 1) 0 [5, 0] := by decide

theorem test_readState :
    result (.readState 3) golden = okWith [1, 2, 3, 4] 4 ∧
    result (.readState 4) golden = turnedAway golden .badIndex ∧
    result (.readState 65) (holding .lfib (List.replicate 64 1) [0, 31]) =
      okWith (List.replicate 64 1) 31 [0, 31] ∧
    result (.readState 66) (holding .lfib (List.replicate 64 1) [0, 31]) =
      turnedAway (holding .lfib (List.replicate 64 1) [0, 31]) .badIndex := by decide

/-! ## The step (2.2: priority of the statuses; R250, R251, R256) -/

/-- ILLEGAL_OP comes before UNSUPPORTED and before BAD_INDEX. -/
theorem test_step_illegal_word_first :
    stepResult ((holding .lcg128 [1, 2]).withFetchWord 80 0x50000000000000000001) =
      turnedAway (holding .lcg128 [1, 2]) .illegalOp ∧
    stepResult (golden.withFetchWord 80 0x80640000000000000001) = turnedAway golden .illegalOp := by decide

theorem test_step_runs_the_presented_command :
    stepResult (golden.withFetchWord 80 0x80030000000000000000) = okWith [1, 2, 3, 4] 4 := by decide

theorem test_step_without_a_command :
    stepResult golden = some (golden.block, none) ∧
    stepResult { golden with inbox := [.commandWhileBusy 0x20000000000000000000] } = some (golden.block, none) ∧
    stepResult { golden with inbox := [.reset (some 0x1000000000000000000f)] } = some (⟨[0, 0, 0, 0], []⟩, none) ∧
    stepResult { golden with inbox := [.resetDuring 0x50000000000000000000] } = some (⟨[0, 0, 0, 0], []⟩, none) := by
  decide

theorem test_reset_state :
    State.reset.block = ⟨[0, 0, 0, 0], []⟩ ∧ State.reset.rsp = none ∧ State.reset.variantId = 2 ∧
    (State.resetOf (referenceBuild .lfib)).block.cursors = [0, 0] := by decide

/-! ## Assembler text, pseudo-instructions, byte order (R79, R80, R55) -/

theorem test_assembler_lines :
    parseLine "v2: LOAD_STATE 3, 0x4 ; word 3".toList = some ⟨some 2, some (.loadState 3 4)⟩ ∧
    parseLine "SEED -1".toList = some ⟨none, some (.seed 0xffffffffffffffff)⟩ ∧
    parseLine "; nothing here".toList = some ⟨none, none⟩ ∧
    parseLine "LOAD_STATE 1, -1".toList = none ∧
    listing (encode (.loadState 64 0x45)) = "7040_0000000000000045".toList := by decide +kernel

theorem test_pseudo_expansions :
    Pseudo.expand (referenceBuild .rsx256) (.loadAll [1, 2, 3, 4]) =
      some [.loadState 0 1, .loadState 1 2, .loadState 2 3, .loadState 3 4] ∧
    Pseudo.expand (referenceBuild .rsx256) (.loadAll [1, 2, 3]) = none ∧
    Pseudo.expand (referenceBuild .rsx256) (.stream 5 2) = some [.seed 5, .jump, .jump] ∧
    Pseudo.expand (referenceBuild .pcg32) (.stream 5 2) = none ∧
    Pseudo.expand (referenceBuild .sfc) (.discard 2) = some [.nextU64, .nextU64] := by decide

theorem test_outputBytes : outputBytes 0x0102030405060708 = [8, 7, 6, 5, 4, 3, 2, 1] := by decide

/-! ## Witnesses: concrete states and operands that meet the hypotheses of each statement -/

/-- The golden state with one command word presented. -/
def presented (w : CmdWord) : State := { golden with inbox := [.command w] }

/-- A build of variant `v` with an open algorithm of `n` words. -/
def openBuild (v : Variant) (n : Nat) : Build := { referenceBuild v with algorithm := .other n 7 }

theorem witness_DecodeOfEncodeIsIdentity :
    (Instr.loadState 127 0xffffffffffffffff).wf = true ∧ (Instr.readState 0).wf = true ∧
    (Instr.seed 1).wf = true ∧ Instr.longJump.wf = true := by decide

theorem witness_EncodeOfDecodeIsIdentity :
    decode 0x707fffffffffffffffff = .ok (.loadState 127 0xffffffffffffffff) := by decide

/-- One word meets the three clauses' hypotheses: it decodes, and a row selects it. -/
theorem witness_DecoderFollowsTheOpcodeMap :
    decode 0x807f0000000000000000 = .ok (.readState 127) ∧
    ∃ r ∈ opcodeRows, r.selects 0x807f0000000000000000 = true := by decide

/-- A word for each of the four ways to be illegal, and a legal one at each boundary; one of the first presented. -/
theorem witness_IllegalWordsAreTheOnesTheFieldsName :
    (fieldOp 0x0fff0000000000000000 = 0 ∧ 9 ≤ (fieldOp 0x90000000000000000000).toNat) ∧
    fieldRsv 0x10800000000000000000 ≠ 0 ∧
    (fieldIdx 0x60010000000000000000 ≠ 0 ∧ fieldOp 0x60010000000000000000 ≠ 7 ∧ fieldOp 0x60010000000000000000 ≠ 8) ∧
    (fieldArg 0x80000000000000000001 ≠ 0 ∧ fieldOp 0x80000000000000000001 ≠ 1 ∧ fieldOp 0x80000000000000000001 ≠ 7) ∧
    decode 0x8000000000000000000f = .error .argNotZero ∧
    (presented 0x8000000000000000000f).inbox = .command 0x8000000000000000000f :: [] := by decide

theorem witness_StepRunsTheDecodedCommand :
    (presented 0x50000000000000000000).inbox = .command 0x50000000000000000000 :: [] ∧
    tableWord 80 0x50000000000000000000 = some 0x50000000000000000000 ∧
    decode 0x50000000000000000000 = .ok .jump := by decide

/-- One word for each of the four statuses. -/
theorem witness_CommandStatusIsTheStatusFunction :
    (presented 0x20000000000000000000).inbox = .command 0x20000000000000000000 :: [] ∧
    statusOf 0x20000000000000000000 (referenceBuild .rsx256) = .ok ∧
    statusOf 0x20000000000000000001 (referenceBuild .rsx256) = .illegalOp ∧
    statusOf 0x40000000000000000000 (referenceBuild .rsx256) = .unsupported ∧
    statusOf 0x80040000000000000000 (referenceBuild .rsx256) = .badIndex ∧
    statusOf 0x80030000000000000000 (referenceBuild .rsx256) = .ok ∧
    ∀ v ∈ [Variant.lcg128, .splitmix, .rsx256, .pcg32, .pcg64, .msws, .romu, .lfib, .mwc, .sfc],
      (referenceBuild v).variant = v := by decide

theorem witness_RefusedCommandOnlyResponds :
    (presented 0x80040000000000000000).inbox = .command 0x80040000000000000000 :: [] ∧
    statusOf 0x80040000000000000000 (presented 0x80040000000000000000).build ≠ .ok := by decide

theorem witness_WithoutAnAcceptedCommandNothingChanges :
    golden.inbox = [] ∧ ({ golden with inbox := [.idle] } : State).inbox = .idle :: [] ∧
    ({ golden with inbox := [.commandWhileBusy 5] } : State).inbox = .commandWhileBusy 5 :: [] := by decide

/-- Two states of one build, a reset shown with and without a command; a reset during a command; indices at the ends of their
ranges on variant 7. -/
theorem witness_ResetZeroesTheStateBlock :
    ({ golden with inbox := [.reset none] } : State).inbox = .reset none :: [] ∧
    ({ State.reset with inbox := [.reset (some 9)] } : State).inbox = .reset (some 9) :: [] ∧
    golden.build = State.reset.build ∧
    ({ golden with inbox := [.resetDuring 9] } : State).inbox = .resetDuring 9 :: [] ∧
    63 < nw (referenceBuild .lfib) ∧ 1 < nc (referenceBuild .lfib) := by decide

theorem witness_AfterResetEveryIndexReadsZero :
    0 < nidx (referenceBuild .splitmix) ∧ 65 < nidx (referenceBuild .lfib) ∧ 14 < nidx (openBuild .mwc 15) := by decide

theorem witness_ResetStateMeetsTheInvariant :
    (referenceBuild .lfib).wf = true ∧ (openBuild .sfc 1).wf = true ∧ (openBuild .sfc 15).wf = true := by decide

/-- A state that meets the invariant, holds a refusal on the port, and steps. -/
theorem witness_EveryStepKeepsTheInvariant :
    ({ presented 0x20000000000000000000 with rsp := some ⟨.badIndex, 0⟩ } : State).Inv ∧
    ∃ t, step (presented 0x20000000000000000000) = .next t := by
  refine ⟨by decide, _, rfl⟩

theorem witness_CommandsTouchOnlyWhatTheTableNames :
    (∃ t, exec .nextU32 golden = .next t) ∧
    (golden.build = State.reset.build ∧ (∃ t, exec (.seed 5) golden = .next t) ∧ ∃ t, exec (.seed 5) State.reset = .next t) ∧
    (∃ t, exec (.loadState 3 5) golden = .next t) ∧ (2 ≠ 3) ∧ ∃ t, exec (.readState 3) golden = .next t :=
  ⟨⟨_, rfl⟩, ⟨rfl, ⟨_, rfl⟩, _, rfl⟩, ⟨_, rfl⟩, by decide, _, rfl⟩

theorem witness_SeedForgetsThePast : golden.build = State.reset.build ∧ golden.block ≠ State.reset.block := by decide

/-- A legal and an illegal word of each operation code whose statement has a clause on its words. -/
theorem witness_words_of_an_operation_code :
    (fieldOp 0x30000000000000000000 = 3 ∧ fieldOp 0x30000000000000000001 = 3) ∧
    (fieldOp 0x40000000000000000000 = 4 ∧ fieldOp 0x40010000000000000000 = 4) ∧
    (fieldOp 0x50000000000000000000 = 5 ∧ fieldOp 0x50800000000000000000 = 5) ∧
    (fieldOp 0x707f0000000000000001 = 7 ∧ fieldOp 0x70800000000000000000 = 7) ∧
    fieldOp 0x80410000000000000000 = 8 ∧ fieldOp 0x80000000000000000001 = 8 := by decide

/-- The bits of the clause on single bits, at both ends. -/
theorem witness_NextI63IsHalfOfNextU64 :
    (0 < 63 ∧ 62 < 63) ∧ fieldOp 0x30000000000000000000 = 3 ∧ fieldOp 0x3fff0000000000000000 = 3 := by decide

/-- Indices at both ends of the words, of the cursors, and just outside, on variants 2 and 7. -/
theorem witness_LoadStateWritesOneIndex :
    blockFits golden.build golden.block ∧ 0 < nidx golden.build ∧ 3 < nidx golden.build ∧ nidx golden.build ≤ 4 ∧
    blockFits (referenceBuild .lfib) (resetBlock (referenceBuild .lfib)) ∧
    (63 < nw (referenceBuild .lfib) ∧ ¬ 64 < nw (referenceBuild .lfib) ∧ 65 < nidx (referenceBuild .lfib)) ∧
    nidx (referenceBuild .lfib) ≤ 66 := by decide

theorem witness_ReadStatePresentsOneIndex :
    (0 < nw golden.build ∧ 3 < nw golden.build) ∧
    (nw (referenceBuild .lfib) ≤ 64 ∧ 64 < nidx (referenceBuild .lfib) ∧ 65 < nidx (referenceBuild .lfib)) ∧
    nidx golden.build ≤ 4 ∧ nidx (referenceBuild .lfib) ≤ 66 := by decide

/-- Variant 2 with four words; on variant 7 the last word and both cursors are indices of the two ranges. -/
theorem witness_LoadAllLoadsEveryIndex :
    blockFits golden.build golden.block ∧
    (∃ is, Pseudo.expand golden.build (.loadAll [1, 2, 3, 4]) = some is) ∧ 3 < nw golden.build ∧
    (∃ is, Pseudo.expand (referenceBuild .lfib) (.loadAll (List.replicate 66 0x45)) = some is) ∧
    nw (referenceBuild .lfib) ≤ 64 ∧ 65 < nidx (referenceBuild .lfib) := by
  refine ⟨by decide, ⟨_, rfl⟩, by decide, ⟨_, rfl⟩, by decide, by decide⟩

/-- Counts and bits at both ends of their ranges. -/
theorem witness_RotatesMoveBitsCyclically : (0 < 64 ∧ 63 < 64) ∧ 0 < 32 ∧ 31 < 32 := by decide

theorem witness_NextOnLcg128ReturnsTheNewHighWord :
    (holding .lcg128 [1, 0]).build.variant = .lcg128 ∧
    (0x9bd7d391ec62757214057b7ef767814f : Wide) =
      wide ((holding .lcg128 [1, 0]).block.word 0) ((holding .lcg128 [1, 0]).block.word 1) *
        (holding .lcg128 [1, 0]).build.lcgM + (holding .lcg128 [1, 0]).build.lcgA := by decide

theorem witness_SeedOnLcg128FollowsTheSeedMode :
    (holding .lcg128 [1, 0]).build.variant = .lcg128 ∧ (holding .lcg128 [1, 0]).build.lcgSeedMode = .loSeed ∧
    ({ referenceBuild .lcg128 with lcgSeedMode := .hiSeedLoOne } : Build).lcgSeedMode = .hiSeedLoOne := by decide

theorem witness_SplitMixStateIsAWeylSequence : (holding .splitmix [1]).build.variant = .splitmix := by decide

/-- The golden state meets the hypotheses of every statement that asks for variant 2 alone. -/
theorem witness_SeedOnRsx256FillsFourWords : golden.build.variant = .rsx256 := by decide

theorem witness_NextOnRsx256InClosedForm :
    golden.build.variant = .rsx256 ∧ (1 : Word) = golden.block.word 0 ∧ (2 : Word) = golden.block.word 1 ∧
    (3 : Word) = golden.block.word 2 ∧ (4 : Word) = golden.block.word 3 := by decide

theorem witness_RsxUpdateIsInvertibleAndFixesZero : (⟨0, 0, 0, 1⟩ : Rsx) ≠ ⟨0, 0, 0, 0⟩ := by decide

theorem witness_JumpsCompleteOnRsx256Only :
    golden.build.variant = .rsx256 ∧ (holding .pcg32 [1]).build.variant ≠ .rsx256 := by decide

theorem witness_JumpEqualsTwoPow128Steps :
    ∃ n m : Nat, golden.build.variant = .rsx256 ∧ n = 2 ^ 128 ∧ m = 2 ^ 192 := ⟨_, _, rfl, rfl, rfl⟩

theorem witness_JumpCommutesWithStepping : golden.build.variant = .rsx256 := by decide

/-- A SEED presented to the golden state. -/
theorem witness_NonZeroRsxStateStaysNonZero :
    golden.build.variant = .rsx256 ∧ (presented 0x10000000000000000000).Inv ∧
    notAllZero (presented 0x10000000000000000000).block ∧
    (presented 0x10000000000000000000).inbox = .command 0x10000000000000000000 :: [] ∧
    (∀ idx arg, decode 0x10000000000000000000 ≠ .ok (.loadState idx arg)) ∧
    ∃ t, step (presented 0x10000000000000000000) = .next t := by
  refine ⟨by decide, by decide, ⟨1, by decide, by decide⟩, by decide, fun idx arg => ?_, _, rfl⟩
  rw [show decode 0x10000000000000000000 = .ok (.seed 0) by decide]
  simp

theorem witness_Pcg32StepPermutesTheOldState : 0 < 32 ∧ 31 < 32 := by decide

theorem witness_NextU32CompletesOnPcg32Only :
    (holding .pcg32 [1]).build.variant = .pcg32 ∧ golden.build.variant ≠ .pcg32 := by decide

theorem witness_NextU64OnPcg32PacksTwoNextU32 : (holding .pcg32 [1]).build.variant = .pcg32 := by decide

theorem witness_SeedOnPcg32DiscardsOneTransition :
    (referenceBuild .pcg32).variant = .pcg32 ∧ (referenceBuild .pcg32).pcg32SeedDiscard = 1 ∧
    ({ referenceBuild .pcg32 with pcg32SeedDiscard := 0 } : Build).pcg32SeedDiscard = 0 := by decide

/-- The seed transition of 95_test_vectors.md 2.8 from seed 0, and the same values as a step from the all-zero state. -/
theorem witness_NextAndSeedOnPcg64 :
    (holding .pcg64 [0, 0]).build.variant = .pcg64 ∧
    (0x5851f42d4c957f2d14057b7ef767814f : Wide) =
      wide ((holding .pcg64 [0, 0]).block.word 0) ((holding .pcg64 [0, 0]).block.word 1) *
        (holding .pcg64 [0, 0]).build.pcg64M + (holding .pcg64 [0, 0]).build.pcg64A ∧
    (referenceBuild .pcg64).pcg64Out = .xslRr ∧ (referenceBuild .pcg64).pcg64SeedFn = .reference ∧
    (0x5851f42d4c957f2d14057b7ef767814f : Wide) =
      wide 0 0 * (referenceBuild .pcg64).pcg64M + (referenceBuild .pcg64).pcg64A := by decide

/-- Open algorithms of the least and the greatest number of words, and the open algorithm of variant 7. -/
theorem witness_OpenAlgorithmsComplete :
    ((openBuild .msws 1).algorithm = .other 1 7 ∧ (openBuild .msws 1).variant = .msws) ∧
    ((openBuild .sfc 15).algorithm = .other 15 7 ∧ (openBuild .sfc 15).variant = .sfc) ∧
    (openBuild .lfib 3).algorithm = .other 3 7 ∧ (openBuild .lfib 3).variant = .lfib := by decide

theorem witness_ReferenceMswsStepAndSeed :
    (holding .msws [1, 2, 3, 4]).build.variant = .msws ∧
    (holding .msws [1, 2, 3, 4]).build.algorithm = .reference ∧
    (holding .msws [1, 2, 3, 4]).block = ⟨[1, 2, 3, 4], []⟩ := by decide

/-- Every kind, each with a block of its shape that is not all zero. -/
theorem witness_ReferenceRomuOutputsTheOldWordAndStaysNonZero :
    (∀ s ∈ [romuHolding .quad [0, 0, 0, 1], romuHolding .trio [0, 0, 1], romuHolding .duo [0, 1], romuHolding .duoJr [1, 0]],
      s.build.variant = .romu ∧ s.build.algorithm = .reference ∧ blockFits s.build s.block) ∧
    notAllZero (romuHolding .quad [0, 0, 0, 1]).block ∧ notAllZero (romuHolding .duoJr [1, 0]).block :=
  ⟨by decide, ⟨1, by decide, by decide⟩, 1, by decide, by decide⟩

theorem witness_ReferenceRomuStepByKind :
    (referenceBuild .romu).variant = .romu ∧ (referenceBuild .romu).algorithm = .reference ∧
    ((romuHolding .quad [1, 2, 3, 4]).build.romuKind = .quad ∧ (romuHolding .quad [1, 2, 3, 4]).block = ⟨[1, 2, 3, 4], []⟩) ∧
    ((romuHolding .trio [1, 2, 3]).build.romuKind = .trio ∧ (romuHolding .trio [1, 2, 3]).block = ⟨[1, 2, 3], []⟩) ∧
    ((romuHolding .duo [1, 2]).build.romuKind = .duo ∧ (romuHolding .duo [1, 2]).block = ⟨[1, 2], []⟩) ∧
    (romuHolding .duoJr [1, 2]).build.romuKind = .duoJr ∧ (romuHolding .duoJr [1, 2]).block = ⟨[1, 2], []⟩ := by decide

/-- A table of odd entries, one cursor at the end of its range; an entry that is not replaced. -/
theorem witness_ReferenceLfibReplacesOneEntry :
    let s := holding .lfib (List.replicate 64 1) [63, 0]
    (s.build.variant = .lfib ∧ s.build.algorithm = .reference ∧ blockFits s.build s.block ∧ s.block.cursors = [63, 0] ∧
      s.build.lfibOp = .mul ∧ s.build.lfibOut = .newEntry ∧ 0 ≠ (63 : Cursor).val) ∧ allOdd s.block :=
  ⟨by decide, fun w hw => by rw [List.eq_of_mem_replicate hw]; decide⟩

theorem witness_ReferenceLfibSeed :
    (referenceBuild .lfib).variant = .lfib ∧ (referenceBuild .lfib).algorithm = .reference ∧ 0 < 64 ∧ 63 < 64 := by decide

theorem witness_ReferenceMwcSplitsTheExactSum :
    let s := holding .mwc [0xffffffffffffffff, 0xffffffffffffffff]
    s.build.variant = .mwc ∧ s.build.algorithm = .reference ∧
      s.block = ⟨[0xffffffffffffffff, 0xffffffffffffffff], []⟩ := by decide

theorem witness_ReferenceSfcStepAndSeed :
    let s := holding .sfc [1, 2, 3, 1]
    s.build.variant = .sfc ∧ s.build.algorithm = .reference ∧ s.block = ⟨[1, 2, 3, 1], []⟩ := by decide

/-- A build for each of the four rows of 10_state.md R42. -/
theorem witness_DegenerateResetStatesReturnZeroForEver :
    ∀ v ∈ [Variant.rsx256, .romu, .lfib, .mwc],
      (referenceBuild v).variant = .rsx256 ∨
        ((referenceBuild v).algorithm = .reference ∧
          ((referenceBuild v).variant = .romu ∨ (referenceBuild v).variant = .mwc ∨
            ((referenceBuild v).variant = .lfib ∧ (referenceBuild v).lfibOp = .mul ∧
              (referenceBuild v).lfibOut = .newEntry))) := by decide

theorem witness_GoldenVectorsOfTheSource :
    (referenceBuild .rsx256).variant = .rsx256 ∧ (referenceBuild .pcg32).variant = .pcg32 ∧
    (referenceBuild .splitmix).variant = .splitmix := by decide

theorem witness_InstancesShareNothing :
    (1 ≠ 0) ∧ ([golden, holding .pcg32 [1]] : System)[0]? = some golden := by decide

theorem witness_StreamIsTheSeededStateJumpedAhead :
    ∃ n : Nat, golden.build.variant = .rsx256 ∧ n = 2 ^ 128 ∧
      Pseudo.expand golden.build (.stream 0 2) = some [.seed 0, .jump, .jump] := ⟨_, rfl, rfl, rfl⟩

end Sys2Proof.Tests
end

section
/-! PROOFS. The arithmetic primitives of 00_scope.md R11 and R12 as equations between naturals: the parts that
`mul64x64` and `add64c` return, put together with their weights, are the exact product and the exact sum. -/

namespace Sys2Proof.Machine

/-- The product is below `2 ^ 128`, so that its quotient by `2 ^ 64` fits the high word. -/
theorem mul64x64_exact (a b : Word) :
    (mul64x64 a b).1.toNat * 2 ^ 64 + (mul64x64 a b).2.toNat = a.toNat * b.toNat := by
  have high_fits : a.toNat * b.toNat / 2 ^ 64 < 2 ^ 64 :=
    Nat.div_lt_of_lt_mul (Nat.mul_lt_mul'' a.isLt b.isLt)
  simp only [mul64x64, BitVec.toNat_ofNat, Nat.mod_eq_of_lt high_fits]
  exact Nat.div_add_mod' _ _

/-- The sum is below `2 ^ 65`, so that one carry bit of weight `2 ^ 64` holds what the word loses. -/
theorem add64c3_exact (a b : Word) (c : Bool) :
    (add64c3 a b c).2.toNat * 2 ^ 64 + (add64c3 a b c).1.toNat = a.toNat + b.toNat + c.toNat := by
  have sum_fits : a.toNat + b.toNat + c.toNat < 2 ^ 65 := by
    have := c.toNat_le
    omega
  simp only [add64c3, carryWord_toNat, BitVec.toNat_ofNat]
  by_cases carries : 2 ^ 64 ≤ a.toNat + b.toNat + c.toNat
  · simp only [carries, decide_true, Bool.toNat_true]
    omega
  · simp only [carries, decide_false, Bool.toNat_false]
    omega

/-- The two-operand form is the three-operand form without a carry in. -/
theorem add64c_exact (a b : Word) :
    (add64c a b).2.toNat * 2 ^ 64 + (add64c a b).1.toNat = a.toNat + b.toNat :=
  add64c3_exact a b false

/-- Settles O25: each primitive by its own exactness lemma. -/
theorem wideMultiplyAndCarryAddAreExact : Obligations.WideMultiplyAndCarryAddAreExact :=
  ⟨mul64x64_exact, add64c_exact, add64c3_exact⟩

end Sys2Proof.Machine
end

section
/-! PROOFS. The reset state read back (10_state.md R40): what READ_STATE answers at a valid index, and that every index of
the reset block names a zero, word or cursor. -/

namespace Sys2Proof.Machine

/-- READ_STATE below NIDX presents what the index names and moves nothing (40_common_interface.md R108). -/
theorem exec_readState_of_lt {s : State} {idx : Nat} (valid : idx < nidx s.build) :
    exec (.readState idx) s = .next (complete s.block (readIndex s.build s.block idx) s) :=
  if_pos valid

@[simp] theorem wordOfCursor_zero : wordOfCursor 0 = 0 := rfl

@[simp] theorem resetBlock_word (b : Build) (i : Nat) : (resetBlock b).word i = 0 :=
  List.getElem?_getD_replicate_default_eq _ _ i

@[simp] theorem resetBlock_cursor (b : Build) (j : Nat) : (resetBlock b).cursor j = 0 :=
  List.getElem?_getD_replicate_default_eq _ _ j

/-- Words and cursors alike: the two ranges of the index space (20_memory.md R51) are the two cases. -/
theorem readIndex_resetBlock (b : Build) (idx : Nat) : readIndex b (resetBlock b) idx = 0 := by
  by_cases is_word : idx < nw b
  · simp [readIndex, is_word]
  · simp [readIndex, is_word]

/-- Settles O12: READ_STATE completes at a valid index, and what it reads of the reset block is zero. -/
theorem afterResetEveryIndexReadsZero : Obligations.AfterResetEveryIndexReadsZero := by
  intro b idx valid
  rw [exec_readState_of_lt (s := State.resetOf b) valid, resetOf_build, resetOf_block, readIndex_resetBlock]
  rfl

end Sys2Proof.Machine
end

section
/-! PROOFS. The byte order of a serialised output (20_memory.md R55): byte `k` is the digit of weight `256 ^ k` in base
256, so consecutive bytes read least significant first are a run of the output's base-256 digits. -/

namespace Sys2Proof.Machine

theorem toNat_byte (o : Word) (k : Nat) : (o.extractLsb' (8 * k) 8).toNat = o.toNat / 256 ^ k % 256 := by
  rw [BitVec.extractLsb'_toNat, Nat.shiftRight_eq_div_pow, Nat.pow_mul]

/-- By induction on the number of bytes: the first of `n + 1` bytes is the remainder by 256, and the other `n`, which start
one byte later, are the digits of the quotient. -/
theorem foldr_consecutive_bytes (o : Word) (i n : Nat) :
    ((List.range' i n).map (fun k => o.extractLsb' (8 * k) 8)).foldr (fun byte acc => byte.toNat + 256 * acc) 0 =
      o.toNat / 256 ^ i % 256 ^ n := by
  induction n generalizing i with
  | zero => simp [Nat.mod_one]
  | succ n ih =>
    rw [List.range'_succ, List.map_cons, List.foldr_cons, ih, toNat_byte, pow_succ' 256 n, Nat.mod_mul,
      Nat.div_div_eq_div_mul, ← pow_succ]

@[simp] theorem outputBytes_length (o : Word) : (outputBytes o).length = 8 := by
  rw [outputBytes, List.length_map, List.length_range]

/-- Settles O27: the eight bytes from byte 0 on are the output modulo `256 ^ 8 = 2 ^ 64`, which is the output. -/
theorem outputBytesAreLittleEndian : Obligations.OutputBytesAreLittleEndian := by
  refine fun o => ⟨outputBytes_length o, ?_⟩
  rw [outputBytes, List.range_eq_range', foldr_consecutive_bytes, pow_zero, Nat.div_one]
  exact Nat.mod_eq_of_lt o.isLt

end Sys2Proof.Machine
end

section
/-! PROOFS. The opcode map read by field (30_encoding.md R72 to R76): which words a command accepts, that the decoder
accepts them and no others, and that the row of a command selects them and no others. -/

namespace Sys2Proof

/-- The commands with an `idx` operand (30_encoding.md R72, R74). -/
def Opcode.takesIdx : Opcode → Bool
  | .loadState | .readState => true
  | .seed | .nextU64 | .nextI63 | .nextU32 | .jump | .longJump => false

/-- The commands with an `arg` operand (R72, R74). -/
def Opcode.takesArg : Opcode → Bool
  | .seed | .loadState => true
  | .nextU64 | .nextI63 | .nextU32 | .jump | .longJump | .readState => false

/-- `w` is a word of the command `o`: its operation code, and zero in every field the command does not use (R72). -/
def Opcode.Accepts (o : Opcode) (w : CmdWord) : Prop :=
  fieldOp w = o.code ∧ fieldRsv w = 0 ∧ (o.takesIdx = true ∨ fieldIdx w = 0) ∧ (o.takesArg = true ∨ fieldArg w = 0)

theorem Opcode.Accepts.op {o : Opcode} {w : CmdWord} (h : o.Accepts w) : fieldOp w = o.code := h.1

/-- The command `o` with the operands it takes read from the fields of `w`. -/
def Opcode.commandOf (o : Opcode) (w : CmdWord) : Instr :=
  match o with
  | .seed => .seed (fieldArg w)
  | .nextU64 => .nextU64
  | .nextI63 => .nextI63
  | .nextU32 => .nextU32
  | .jump => .jump
  | .longJump => .longJump
  | .loadState => .loadState (fieldIdx w).toNat (fieldArg w)
  | .readState => .readState (fieldIdx w).toNat

@[simp] theorem Opcode.commandOf_opcode (o : Opcode) (w : CmdWord) : (o.commandOf w).opcode = o := by
  cases o <;> rfl

theorem Opcode.code_injective : Function.Injective Opcode.code := by
  intro o p
  cases o <;> cases p <;> decide

/-- An operation code is undefined (R76) or belongs to a row. -/
theorem undefined_or_code : ∀ op : BitVec 4, (op = 0 ∨ 9 ≤ op.toNat) ∨ ∃ r ∈ opcodeRows, op = r.opcode.code := by
  decide

theorem decodeOp_of_undefined {w : CmdWord} (undefined : fieldOp w = 0 ∨ 9 ≤ (fieldOp w).toNat) :
    decodeOp w = .error .undefinedOp := by
  have undefined_nat : (fieldOp w).toNat = 0 ∨ 9 ≤ (fieldOp w).toNat := undefined.imp_left (congrArg BitVec.toNat)
  unfold decodeOp
  split
  case h_9 => rfl
  all_goals omega

theorem decodeOp_of_code {o : Opcode} {w : CmdWord} (hop : fieldOp w = o.code) :
    decodeOp w =
      if o.takesIdx = true ∨ fieldIdx w = 0 then
        if o.takesArg = true ∨ fieldArg w = 0 then .ok (o.commandOf w) else .error .argNotZero
      else .error .idxNotZero := by
  cases o <;>
    simp [decodeOp, hop, Opcode.code, Opcode.takesIdx, Opcode.takesArg, Opcode.commandOf, bare, requireNoIdx, requireNoArg]

theorem decode_eq_ok_iff_of_code {o : Opcode} {w : CmdWord} {i : Instr} (hop : fieldOp w = o.code) :
    decode w = .ok i ↔ o.Accepts w ∧ o.commandOf w = i := by
  rw [decode, decodeOp_of_code hop, Opcode.Accepts]
  split_ifs with hrsv hidx harg <;> simp only [*, true_and, false_and, and_false, Except.ok.injEq]

theorem decode_of_accepts {o : Opcode} {w : CmdWord} (h : o.Accepts w) : decode w = .ok (o.commandOf w) :=
  (decode_eq_ok_iff_of_code h.op).mpr ⟨h, rfl⟩

/-- The decoder (R74): a word decodes to the command that accepts it, with its operands, and to nothing else. -/
theorem decode_eq_ok_iff {w : CmdWord} {i : Instr} :
    decode w = .ok i ↔ ∃ o : Opcode, o.Accepts w ∧ o.commandOf w = i := by
  constructor
  · intro h
    obtain undefined | ⟨r, -, hop⟩ := undefined_or_code (fieldOp w)
    · rw [decode, decodeOp_of_undefined undefined] at h
      split at h <;> cases h
    · exact ⟨r.opcode, (decode_eq_ok_iff_of_code hop).mp h⟩
  · rintro ⟨o, accepts, rfl⟩
    exact decode_of_accepts accepts

/-- Two commands have no word in common, their operation codes being different. -/
theorem Opcode.Accepts.unique {o p : Opcode} {w : CmdWord} (ho : o.Accepts w) (hp : p.Accepts w) : o = p :=
  Opcode.code_injective (ho.op.symm.trans hp.op)

theorem decode_eq_error_iff {w : CmdWord} : (∃ e, decode w = .error e) ↔ ¬ ∃ o : Opcode, o.Accepts w := by
  constructor
  · rintro ⟨e, he⟩ ⟨o, accepts⟩
    rw [decode_of_accepts accepts] at he
    cases he
  · intro none_accepts
    match hd : decode w with
    | .error e => exact ⟨e, rfl⟩
    | .ok i =>
      obtain ⟨o, accepts, -⟩ := decode_eq_ok_iff.mp hd
      exact absurd ⟨o, accepts⟩ none_accepts

/-! ## Operands -/

/-- A used field is the operand, an unused one is zero in the word and in the command. -/
theorem idxField_commandOf {o : Opcode} {w : CmdWord} (h : o.Accepts w) : (o.commandOf w).idxField = fieldIdx w := by
  obtain ⟨-, -, unused_idx, -⟩ := h
  cases o with
  | loadState | readState => simp [Opcode.commandOf, Instr.idxField]
  | seed | nextU64 | nextI63 | nextU32 | jump | longJump => exact (unused_idx.resolve_left (by decide)).symm

theorem argField_commandOf {o : Opcode} {w : CmdWord} (h : o.Accepts w) : (o.commandOf w).argField = fieldArg w := by
  obtain ⟨-, -, -, unused_arg⟩ := h
  cases o with
  | seed | loadState => rfl
  | nextU64 | nextI63 | nextU32 | jump | longJump | readState => exact (unused_arg.resolve_left (by decide)).symm

/-! ## Rows -/

/-- A word is its four fields (R72). -/
theorem word_eq_iff_fields {v w : CmdWord} :
    v = w ↔ fieldOp v = fieldOp w ∧ fieldRsv v = fieldRsv w ∧ fieldIdx v = fieldIdx w ∧ fieldArg v = fieldArg w := by
  have concat_fields (u : CmdWord) : (fieldOp u ++ (fieldRsv u ++ (fieldIdx u ++ fieldArg u)) : CmdWord) = u := by
    simp only [fieldOp, fieldRsv, fieldIdx, fieldArg, BitVec.extractLsb'_append_extractLsb'_eq_extractLsb',
      BitVec.extractLsb'_eq_self]
  refine ⟨fun h => h ▸ ⟨rfl, rfl, rfl, rfl⟩, fun ⟨hop, hrsv, hidx, harg⟩ => ?_⟩
  rw [← concat_fields v, ← concat_fields w, hop, hrsv, hidx, harg]

@[simp] theorem fieldOp_and (v w : CmdWord) : fieldOp (v &&& w) = fieldOp v &&& fieldOp w := BitVec.extractLsb'_and

@[simp] theorem fieldRsv_and (v w : CmdWord) : fieldRsv (v &&& w) = fieldRsv v &&& fieldRsv w := BitVec.extractLsb'_and

@[simp] theorem fieldIdx_and (v w : CmdWord) : fieldIdx (v &&& w) = fieldIdx v &&& fieldIdx w := BitVec.extractLsb'_and

@[simp] theorem fieldArg_and (v w : CmdWord) : fieldArg (v &&& w) = fieldArg v &&& fieldArg w := BitVec.extractLsb'_and

/-- The masks and matches of R74 by field: `op` and `rsv` are compared in full, `idx` and `arg` where they must be zero. -/
theorem row_fields : ∀ r ∈ opcodeRows,
    (fieldOp r.pattern = r.opcode.code ∧ fieldRsv r.pattern = 0 ∧ fieldIdx r.pattern = 0 ∧ fieldArg r.pattern = 0) ∧
    fieldOp r.mask = BitVec.allOnes 4 ∧ fieldRsv r.mask = BitVec.allOnes 5 ∧
    fieldIdx r.mask = (if r.opcode.takesIdx then 0 else BitVec.allOnes 7) ∧
    fieldArg r.mask = (if r.opcode.takesArg then 0 else BitVec.allOnes 64) := by
  decide

/-- A field under a mask that is zero where the field is used. -/
theorem and_mask_eq_zero_iff {n : Nat} (used : Bool) (x : BitVec n) :
    x &&& (if used then 0 else BitVec.allOnes n) = 0 ↔ used = true ∨ x = 0 := by
  cases used <;> simp

/-- R74 by field: a row selects the words its command accepts. -/
theorem selects_iff_accepts {r : OpcodeRow} (hr : r ∈ opcodeRows) (w : CmdWord) :
    r.selects w = true ↔ r.opcode.Accepts w := by
  obtain ⟨⟨pop, prsv, pidx, parg⟩, mop, mrsv, midx, marg⟩ := row_fields r hr
  rw [OpcodeRow.selects, beq_iff_eq, word_eq_iff_fields, pop, prsv, pidx, parg]
  simp only [fieldOp_and, fieldRsv_and, fieldIdx_and, fieldArg_and, mop, mrsv, midx, marg, and_mask_eq_zero_iff,
    BitVec.and_allOnes, Opcode.Accepts]

theorem exists_row (o : Opcode) : ∃ r ∈ opcodeRows, r.opcode = o := by
  cases o <;> decide

theorem row_unique : ∀ r ∈ opcodeRows, ∀ q ∈ opcodeRows, r.opcode = q.opcode → r = q := by
  decide

/-- Settles O3: both the decoder and the rows follow which command accepts the word, and at most one does. -/
theorem decoderFollowsTheOpcodeMap : Obligations.DecoderFollowsTheOpcodeMap := by
  refine ⟨fun w i decodes => ?_, fun w r hr selects => ?_, fun w r hr q hq selects_r selects_q => ?_⟩
  · obtain ⟨o, accepts, rfl⟩ := decode_eq_ok_iff.mp decodes
    obtain ⟨r, hr, rfl⟩ := exists_row o
    exact ⟨⟨r, hr, (Opcode.commandOf_opcode _ _).symm, (selects_iff_accepts hr w).mpr accepts⟩,
      idxField_commandOf accepts, argField_commandOf accepts⟩
  · exact ⟨_, decode_of_accepts ((selects_iff_accepts hr w).mp selects), Opcode.commandOf_opcode _ _⟩
  · exact row_unique r hr q hq
      (((selects_iff_accepts hr w).mp selects_r).unique ((selects_iff_accepts hq w).mp selects_q))

end Sys2Proof
end

section
/-! PROOFS. The illegal words (30_encoding.md R76): named field by field, and their whole effect. -/

namespace Sys2Proof.Machine

theorem takesIdx_iff_code (o : Opcode) : o.takesIdx = true ↔ o.code = 7 ∨ o.code = 8 := by
  cases o <;> decide

theorem takesArg_iff_code (o : Opcode) : o.takesArg = true ↔ o.code = 1 ∨ o.code = 7 := by
  cases o <;> decide

/-- No command has one of the operation codes R76 lists. -/
theorem code_not_undefined (o : Opcode) : ¬ (o.code = 0 ∨ 9 ≤ o.code.toNat) := by
  cases o <;> decide

/-- A word with the operation code of a command is accepted by that command or by none. -/
theorem exists_accepts_iff_of_code {o : Opcode} {w : CmdWord} (hop : fieldOp w = o.code) :
    (∃ p : Opcode, p.Accepts w) ↔
      fieldRsv w = 0 ∧ (o.takesIdx = true ∨ fieldIdx w = 0) ∧ (o.takesArg = true ∨ fieldArg w = 0) := by
  constructor
  · rintro ⟨p, accepts⟩
    obtain rfl := Opcode.code_injective (hop.symm.trans accepts.op)
    exact accepts.2
  · exact fun fields => ⟨o, hop, fields⟩

/-- By the operation code: an undefined one is accepted by no command, and of a defined one the other fields decide. -/
theorem decode_eq_error_iff_fields (w : CmdWord) :
    (∃ e, decode w = .error e) ↔
      (fieldOp w = 0 ∨ 9 ≤ (fieldOp w).toNat) ∨
      fieldRsv w ≠ 0 ∨
      (fieldIdx w ≠ 0 ∧ fieldOp w ≠ 7 ∧ fieldOp w ≠ 8) ∨
      (fieldArg w ≠ 0 ∧ fieldOp w ≠ 1 ∧ fieldOp w ≠ 7) := by
  rw [decode_eq_error_iff]
  obtain undefined | ⟨r, -, hop⟩ := undefined_or_code (fieldOp w)
  · exact iff_of_true (fun ⟨o, accepts⟩ => code_not_undefined o (accepts.op ▸ undefined)) (.inl undefined)
  · have defined := code_not_undefined r.opcode
    rw [exists_accepts_iff_of_code hop, takesIdx_iff_code, takesArg_iff_code, hop]
    tauto

theorem runCommand_of_error {w : CmdWord} {e : Illegal} (illegal : decode w = .error e) (s : State) :
    runCommand w s = .next (raise .illegalOp s) := by
  rw [runCommand, illegal]

/-- Settles O4: the field reading of the decoder's errors, and the response ILLEGAL_OP of a step on one. -/
theorem illegalWordsAreTheOnesTheFieldsName : Obligations.IllegalWordsAreTheOnesTheFieldsName := by
  refine ⟨decode_eq_error_iff_fields, fun w rest s ⟨e, illegal⟩ hinbox => ?_, ?_⟩
  · rw [step_of_inbox hinbox]
    exact runCommand_of_error illegal _
  · exact (decode_eq_error_iff_fields 0).mpr (.inl (.inl rfl))

end Sys2Proof.Machine
end

section
/-! PROOFS. The words of one operation code (30_encoding.md R72, R74, R76): the command of that code where every field it does
not use is zero, illegal otherwise. -/

namespace Sys2Proof

theorem decode_by_fields_of_code {o : Opcode} {w : CmdWord} (hop : fieldOp w = o.code) :
    if fieldRsv w = 0 ∧ (o.takesIdx = true ∨ fieldIdx w = 0) ∧ (o.takesArg = true ∨ fieldArg w = 0)
    then decode w = .ok (o.commandOf w) else ∃ e, decode w = .error e := by
  split_ifs with fields
  · exact decode_of_accepts ⟨hop, fields⟩
  · exact decode_eq_error_iff.mpr (mt (Machine.exists_accepts_iff_of_code hop).mp fields)

/-- The same for a command without operands. -/
theorem decode_by_fields_of_bare_code {o : Opcode} {w : CmdWord} (hop : fieldOp w = o.code)
    (no_idx : o.takesIdx = false) (no_arg : o.takesArg = false) :
    if fieldRsv w = 0 ∧ fieldIdx w = 0 ∧ fieldArg w = 0
    then decode w = .ok (o.commandOf w) else ∃ e, decode w = .error e := by
  simpa only [no_idx, no_arg, Bool.false_eq_true, false_or] using decode_by_fields_of_code hop

end Sys2Proof
end

section
/-! PROOFS. The state index space (20_memory.md R51): what an index reads after LOAD_STATE wrote it or another index
(40_common_interface.md R107), and what READ_STATE presents in each range of the space (R108). -/

namespace Sys2Proof.Machine

/-! ## Reading and writing one index -/

theorem readIndex_of_lt_nw {b : Build} {idx : Nat} (k : Block) (is_word : idx < nw b) : readIndex b k idx = k.word idx :=
  if_pos is_word

theorem readIndex_of_nw_le {b : Build} {idx : Nat} (k : Block) (is_cursor : nw b ≤ idx) :
    readIndex b k idx = wordOfCursor (k.cursor (idx - nw b)) :=
  if_neg is_cursor.not_gt

theorem writeIndex_of_lt_nw {b : Build} {idx : Nat} (k : Block) (arg : Word) (is_word : idx < nw b) :
    writeIndex b k idx arg = { k with words := k.words.set idx arg } :=
  if_pos is_word

theorem writeIndex_of_nw_le {b : Build} {idx : Nat} (k : Block) (arg : Word) (is_cursor : nw b ≤ idx) :
    writeIndex b k idx arg = { k with cursors := k.cursors.set (idx - nw b) (cursorOfWord arg) } :=
  if_neg is_cursor.not_gt

/-- A stored cursor read back is the loaded value modulo LFIB_K (10_state.md R24). -/
theorem wordOfCursor_cursorOfWord (arg : Word) : wordOfCursor (cursorOfWord arg) = BitVec.ofNat 64 (arg.toNat % 64) := rfl

/-- The written index holds the argument: a word as given, a cursor modulo LFIB_K. The block must have the place. -/
theorem readIndex_writeIndex_same {b : Build} {k : Block} {idx : Nat} (arg : Word) (fits : blockFits b k)
    (valid : idx < nidx b) :
    readIndex b (writeIndex b k idx arg) idx = if idx < nw b then arg else BitVec.ofNat 64 (arg.toNat % 64) := by
  obtain ⟨words_length, cursors_length⟩ := fits
  by_cases is_word : idx < nw b
  · rw [if_pos is_word, readIndex_of_lt_nw _ is_word, writeIndex_of_lt_nw _ _ is_word]
    simp [Block.word, words_length, is_word]
  · have is_cursor : nw b ≤ idx := Nat.le_of_not_lt is_word
    have in_range : idx - nw b < k.cursors.length := by
      rw [nidx] at valid
      omega
    rw [if_neg is_word, readIndex_of_nw_le _ is_cursor, writeIndex_of_nw_le _ _ is_cursor]
    simp [Block.cursor, in_range, wordOfCursor_cursorOfWord]

/-- Every other index reads as before: a word does not move a cursor, nor a cursor a word. -/
theorem readIndex_writeIndex_ne {b : Build} {idx j : Nat} (k : Block) (arg : Word) (other : j ≠ idx) :
    readIndex b (writeIndex b k idx arg) j = readIndex b k j := by
  by_cases is_word : idx < nw b
  · rw [writeIndex_of_lt_nw _ _ is_word]
    simp [readIndex, Block.word, Block.cursor, List.getElem?_set_ne other.symm]
  · have is_cursor : nw b ≤ idx := Nat.le_of_not_lt is_word
    rw [writeIndex_of_nw_le _ _ is_cursor]
    by_cases j_is_word : j < nw b
    · simp [readIndex, Block.word, j_is_word]
    · have other_cursor : idx - nw b ≠ j - nw b := by omega
      simp [readIndex, Block.cursor, j_is_word, List.getElem?_set_ne other_cursor]

/-! ## The two commands -/

theorem exec_loadState_of_lt {s : State} {idx : Nat} (arg : Word) (valid : idx < nidx s.build) :
    exec (.loadState idx arg) s = .next (complete (writeIndex s.build s.block idx arg) 0 s) :=
  if_pos valid

theorem exec_loadState_of_ge {s : State} {idx : Nat} (arg : Word) (outside : nidx s.build ≤ idx) :
    exec (.loadState idx arg) s = .next (raise .badIndex s) :=
  if_neg outside.not_gt

theorem exec_readState_of_ge {s : State} {idx : Nat} (outside : nidx s.build ≤ idx) :
    exec (.readState idx) s = .next (raise .badIndex s) :=
  if_neg outside.not_gt

/-- Settles O22: the index written and every other index by the read-after-write laws, the shape by `writeIndex_fits`. -/
theorem loadStateWritesOneIndex : Obligations.LoadStateWritesOneIndex := by
  refine ⟨fun idx arg s fits valid => ?_, fun idx arg s outside => exec_loadState_of_ge arg outside, fun w hop => ?_⟩
  · exact ⟨_, exec_loadState_of_lt arg valid, rfl, rfl, rfl, writeIndex_fits idx arg fits,
      readIndex_writeIndex_same arg fits valid, fun j other => readIndex_writeIndex_ne s.block arg other⟩
  · simpa [Opcode.takesIdx, Opcode.takesArg, Opcode.commandOf] using decode_by_fields_of_code (o := .loadState) hop

/-- Settles O23: one case per range of the index space, words, cursors and outside. -/
theorem readStatePresentsOneIndex : Obligations.ReadStatePresentsOneIndex := by
  refine ⟨fun idx s is_word => ?_, fun idx s is_cursor valid => ?_, fun idx s outside => exec_readState_of_ge outside,
    fun w hop => ?_⟩
  · have valid : idx < nidx s.build := Nat.lt_add_right _ is_word
    rw [exec_readState_of_lt valid, readIndex_of_lt_nw _ is_word]
    rfl
  · rw [exec_readState_of_lt valid, readIndex_of_nw_le _ is_cursor]
    rfl
  · simpa [Opcode.takesIdx, Opcode.takesArg, Opcode.commandOf] using decode_by_fields_of_code (o := .readState) hop

end Sys2Proof.Machine
end

section
/-! PROOFS. The i63 and the u32 view of an output (40_common_interface.md R105, R106): NEXT_I63 halves the output of NEXT_U64,
NEXT_U32 zero-extends the output of one transition of variant 3. -/

namespace Sys2Proof.Machine

/-! ## The views -/

theorem viewI63_toNat (out : Word) : (viewI63 out).toNat = out.toNat / 2 := by
  rw [viewI63, BitVec.toNat_ushiftRight, Nat.shiftRight_eq_div_pow, pow_one]

theorem viewI63_getLsbD (out : Word) (k : Nat) : (viewI63 out).getLsbD k = out.getLsbD (k + 1) := by
  rw [viewI63, BitVec.getLsbD_ushiftRight, Nat.add_comm]

/-- Bit 63 of the view is bit 64 of the output, which has none. -/
theorem viewI63_msb (out : Word) : (viewI63 out).msb = false := by
  rw [BitVec.msb_eq_getLsbD_last, viewI63_getLsbD]
  exact BitVec.getLsbD_of_ge _ _ le_rfl

/-- As an i64 the view is not negative. -/
theorem viewI63_toInt (out : Word) : (viewI63 out).toInt = ((viewI63 out).toNat : Int) :=
  BitVec.toInt_eq_toNat_of_msb (viewI63_msb out)

theorem viewU32_eq_ofNat (out : Half) : viewU32 out = BitVec.ofNat 64 out.toNat := (BitVec.ofNat_toNat 64 out).symm

/-! ## The commands -/

theorem exec_nextU64 (s : State) :
    exec .nextU64 s = .next (complete (stepFn s.build s.block).1 (stepFn s.build s.block).2 s) := rfl

theorem exec_nextI63 (s : State) :
    exec .nextI63 s = .next (complete (stepFn s.build s.block).1 (viewI63 (stepFn s.build s.block).2) s) := rfl

theorem exec_nextU32_of_pcg32 {s : State} (hv : s.build.variant = .pcg32) :
    exec .nextU32 s = .next (complete (stepPcg32Half s.block).1 (viewU32 (stepPcg32Half s.block).2) s) :=
  if_pos ((hasU32_iff _).mpr hv)

theorem exec_nextU32_of_ne_pcg32 {s : State} (hv : s.build.variant ≠ .pcg32) :
    exec .nextU32 s = .next (raise .unsupported s) :=
  if_neg (mt (hasU32_iff _).mp hv)

/-- Settles O20: one step of the generator for both commands, presented in full and in the i63 view. -/
theorem nextI63IsHalfOfNextU64 : Obligations.NextI63IsHalfOfNextU64 := by
  refine ⟨fun s => ?_, fun w hop => decode_by_fields_of_bare_code (o := .nextI63) hop rfl rfl⟩
  exact ⟨_, _, exec_nextU64 s, exec_nextI63 s, viewI63_toNat _, viewI63_msb _, viewI63_toInt _,
    fun k _ => viewI63_getLsbD _ k⟩

/-- Settles O43: by whether the variant has the u32 output. -/
theorem nextU32CompletesOnPcg32Only : Obligations.NextU32CompletesOnPcg32Only := by
  refine ⟨fun s hv => ?_, fun s hv => exec_nextU32_of_ne_pcg32 hv,
    fun w hop => decode_by_fields_of_bare_code (o := .nextU32) hop rfl rfl⟩
  rw [exec_nextU32_of_pcg32 hv, viewU32_eq_ofNat]
  rfl

end Sys2Proof.Machine
end

section
/-! PROOFS. The 128-bit multiply-add in 64-bit words (41_lcg128.md R131) as an equation between naturals: with the exactness
of `mul64x64` and `add64c` the computed pair differs from the exact value by `hi * M_hi * 2 ^ 128` only. -/

namespace Sys2Proof.Machine

@[simp] theorem wideHi_wide (hi lo : Word) : wideHi (wide hi lo) = hi := BitVec.extractLsb'_append_eq_left

@[simp] theorem wideLo_wide (hi lo : Word) : wideLo (wide hi lo) = lo := BitVec.extractLsb'_append_eq_right

/-- Of a number put in the high word only its value modulo `2 ^ 64` counts, as modulo `2 ^ 128` with the weight `2 ^ 64`. -/
theorem wide_ofNat (n : Nat) (lo : Word) : wide (BitVec.ofNat 64 n) lo = BitVec.ofNat 128 (n * 2 ^ 64 + lo.toNat) := by
  apply BitVec.eq_of_toNat_eq
  rw [wide_toNat, BitVec.toNat_ofNat, BitVec.toNat_ofNat]
  omega

theorem ofNat_carry (c : Bool) : BitVec.ofNat 64 c.toNat = carryWord c := by cases c <;> rfl

/-- Everything of weight `2 ^ 64` in the multiply-add, the carry of the low word included, before it is cut to a word. -/
def lcg128HighSum (hi lo : Word) (m a : Wide) : Nat :=
  let p := mul64x64 lo (wideLo m)
  p.1.toNat + hi.toNat * (wideLo m).toNat + lo.toNat * (wideHi m).toNat + (wideHi a).toNat +
    (add64c p.2 (wideLo a)).2.toNat

theorem lcg128Update_fst (hi lo : Word) (m a : Wide) :
    (lcg128Update hi lo m a).1 = BitVec.ofNat 64 (lcg128HighSum hi lo m a) := by
  simp only [lcg128Update, lcg128HighSum, BitVec.ofNat_add, BitVec.ofNat_mul, BitVec.ofNat_toNat, BitVec.setWidth_eq,
    ofNat_carry]

/-- The exact multiply-add in base `2 ^ 64`: the low product and the low sum by exactness, the rest by expanding. -/
theorem lcg128Update_exact (hi lo : Word) (m a : Wide) :
    (wide hi lo).toNat * m.toNat + a.toNat =
      lcg128HighSum hi lo m a * 2 ^ 64 + (lcg128Update hi lo m a).2.toNat + hi.toNat * (wideHi m).toNat * 2 ^ 128 := by
  have low_product := mul64x64_exact lo (wideLo m)
  have low_sum := add64c_exact (mul64x64 lo (wideLo m)).2 (wideLo a)
  have low_word : (lcg128Update hi lo m a).2 = (add64c (mul64x64 lo (wideLo m)).2 (wideLo a)).1 := rfl
  rw [low_word, ← wide_halves m, ← wide_halves a]
  simp only [lcg128HighSum, wideHi_wide, wideLo_wide, wide_toNat]
  linear_combination -low_product - low_sum

/-- Settles O28: both sides are the same number up to a multiple of `2 ^ 128`. -/
theorem lcgUpdateIsMultiplyAddModulo128 : Obligations.LcgUpdateIsMultiplyAddModulo128 := by
  intro hi lo m a
  apply BitVec.eq_of_toNat_eq
  rw [lcg128Update_fst, wide_ofNat, BitVec.toNat_ofNat, BitVec.toNat_add, BitVec.toNat_mul, Nat.mod_add_mod,
    lcg128Update_exact, Nat.add_mul_mod_self_right]

/-- The update as a function of the 128-bit value: the halves of the multiply-add. -/
theorem lcg128Update_eq_halves (hi lo : Word) (m a : Wide) :
    lcg128Update hi lo m a = (wideHi (wide hi lo * m + a), wideLo (wide hi lo * m + a)) := by
  rw [← lcgUpdateIsMultiplyAddModulo128, wideHi_wide, wideLo_wide]

end Sys2Proof.Machine
end

section
/-! PROOFS. Variant 0 (41_lcg128.md R132, R133): what NEXT_U64, NEXT_I63 and SEED leave and present. -/

namespace Sys2Proof.Machine

/-- The new block holds the halves of the multiply-add, and the output is its high half. -/
theorem stepFn_lcg128_eq_halves {b : Build} {k : Block} {v : Wide} (hv : b.variant = .lcg128)
    (value : v = wide (k.word 0) (k.word 1) * b.lcgM + b.lcgA) :
    stepFn b k = (⟨[wideHi v, wideLo v], []⟩, wideHi v) := by
  rw [stepFn_lcg128 b k hv, stepLcg128, lcg128Update_eq_halves, ← value, blockOfPair]

/-- Settles O29: one step of variant 0 for both commands, presented in full and in the i63 view. -/
theorem nextOnLcg128ReturnsTheNewHighWord : Obligations.NextOnLcg128ReturnsTheNewHighWord := by
  intro s v hv value
  rw [exec_nextU64, exec_nextI63, stepFn_lcg128_eq_halves hv value]
  exact ⟨rfl, rfl⟩

theorem exec_seed (arg : Word) (s : State) : exec (.seed arg) s = .next (complete (seedFn s.build arg) 0 s) := rfl

/-- Settles O30: one case per seed mode. -/
theorem seedOnLcg128FollowsTheSeedMode : Obligations.SeedOnLcg128FollowsTheSeedMode := by
  intro arg s hv
  rw [exec_seed, seedFn_lcg128 s.build arg hv]
  refine ⟨fun lo_seed => ?_, fun hi_seed_lo_one => ?_⟩
  · rw [seedLcg128, lo_seed]
    rfl
  · rw [seedLcg128, hi_seed_lo_one]
    rfl

end Sys2Proof.Machine
end

section
/-! PROOFS. The jump commands (44_jump_unit.md R161, R164): the two ways one ends, and that the loop of R162 keeps the all-zero
state under every table. -/

namespace Sys2Proof.Machine

/-! ## The all-zero state -/

/-- Of the all-zero state the loop steps and sums nothing but the all-zero state. -/
theorem jumpLoop_zero (poly : List Word) (n bitcnt : Nat) :
    (jumpLoop poly n ⟨⟨0, 0, 0, 0⟩, ⟨0, 0, 0, 0⟩, bitcnt⟩).acc = ⟨0, 0, 0, 0⟩ := by
  induction n generalizing bitcnt with
  | zero => rfl
  | succ n ih =>
    have step_zero : (rsxStep ⟨0, 0, 0, 0⟩).1 = ⟨0, 0, 0, 0⟩ := by decide
    have sum_zero : rsxXor ⟨0, 0, 0, 0⟩ ⟨0, 0, 0, 0⟩ = ⟨0, 0, 0, 0⟩ := by decide
    rw [jumpLoop, jumpIteration, step_zero, sum_zero, ite_self]
    exact ih (bitcnt + 1)

theorem jumpCore_zero (poly : List Word) : jumpCore poly ⟨0, 0, 0, 0⟩ = ⟨0, 0, 0, 0⟩ := jumpLoop_zero poly 256 0

/-! ## The commands -/

theorem exec_jump (s : State) : exec .jump s = jumpBy jumpPoly s := rfl

theorem exec_longJump (s : State) : exec .longJump s = jumpBy longJumpPoly s := rfl

theorem jumpBy_of_rsx256 (poly : List Word) {s : State} (hv : s.build.variant = .rsx256) :
    jumpBy poly s = .next (complete (blockOfRsx (jumpCore poly (rsxOfBlock s.block))) 0 s) :=
  if_pos ((hasJump_iff _).mpr hv)

theorem jumpBy_of_ne_rsx256 (poly : List Word) {s : State} (hv : s.build.variant ≠ .rsx256) :
    jumpBy poly s = .next (raise .unsupported s) :=
  if_neg (mt (hasJump_iff _).mp hv)

/-- Settles O37: by whether the variant has the jump unit, the same for both tables. -/
theorem jumpsCompleteOnRsx256Only : Obligations.JumpsCompleteOnRsx256Only := by
  refine ⟨fun s hv => ?_, fun s hv => ?_, ⟨jumpCore_zero jumpPoly, jumpCore_zero longJumpPoly⟩,
    fun w hop => decode_by_fields_of_bare_code (o := .jump) hop rfl rfl⟩
  · rw [exec_jump, exec_longJump, jumpBy_of_rsx256 _ hv, jumpBy_of_rsx256 _ hv]
    exact ⟨rfl, rfl⟩
  · rw [exec_jump, exec_longJump, jumpBy_of_ne_rsx256 _ hv, jumpBy_of_ne_rsx256 _ hv]
    exact ⟨rfl, rfl⟩

end Sys2Proof.Machine
end

section
/-! PROOFS. The 64-bit output of variant 3 (45_pcg.md R175, 20_memory.md R56): STEPFN_3 is the 32-bit step of NEXT_U32 twice, and
its output packs the two u32 views. -/

namespace Sys2Proof.Machine

/-! ## The u32 view as a half of a word -/

theorem viewU32_toNat (out : Half) : (viewU32 out).toNat = out.toNat := BitVec.toNat_setWidth_of_le (by decide)

theorem viewU32_toNat_lt (out : Half) : (viewU32 out).toNat < 2 ^ 32 := viewU32_toNat out ▸ out.isLt

theorem append_eq_viewU32_or (hi lo : Half) : hi ++ lo = viewU32 hi <<< 32 ||| viewU32 lo := by
  rw [BitVec.append_def, BitVec.shiftLeftZeroExtend_eq, BitVec.setWidth'_eq]
  rfl

/-! ## The commands -/

/-- The second 32-bit step starts from the block of the first and gives the high half. -/
theorem stepPcg32_eq_two_halves (k : Block) :
    stepPcg32 k =
      ((stepPcg32Half (stepPcg32Half k).1).1,
        viewU32 (stepPcg32Half (stepPcg32Half k).1).2 <<< 32 ||| viewU32 (stepPcg32Half k).2) := by
  rw [← append_eq_viewU32_or]
  rfl

/-- Settles O44: two NEXT_U32 run the two 32-bit steps of STEPFN_3, which NEXT_U64 and NEXT_I63 present in their views. -/
theorem nextU64OnPcg32PacksTwoNextU32 : Obligations.NextU64OnPcg32PacksTwoNextU32 := by
  intro s hv
  have two_halves := (stepFn_pcg32 s.build s.block hv).trans (stepPcg32_eq_two_halves s.block)
  refine ⟨_, _, _, _, exec_nextU32_of_pcg32 hv, complete_rsp .., exec_nextU32_of_pcg32 hv, complete_rsp .., ?_, ?_,
    viewU32_toNat_lt _, viewU32_toNat_lt _⟩
  · rw [exec_nextU64, two_halves]
    rfl
  · rw [exec_nextI63, two_halves]
    rfl

end Sys2Proof.Machine
end

section
/-! PROOFS. The status of a command (60_exceptions.md R220, R222, R224): which status each command has on each build, that the
masks and matches of R222 give it from the word, and that the command ends with it. -/

namespace Sys2Proof.Machine

/-! ## The status of a decoded command -/

/-- The status `i` ends with on build `b`: OK where `b` has the view, the jump unit or the index that `i` asks for. -/
def commandStatus (i : Instr) (b : Build) : Status :=
  match i with
  | .seed _ | .nextU64 | .nextI63 => .ok
  | .nextU32 => if b.variant = .pcg32 then .ok else .unsupported
  | .jump | .longJump => if b.variant = .rsx256 then .ok else .unsupported
  | .loadState idx _ | .readState idx => if nidx b ≤ idx then .badIndex else .ok

theorem jumpBy_ends_with_status (poly : List Word) (s : State) :
    (commandStatus .jump s.build = .ok ∧ ∃ k d, jumpBy poly s = .next (complete k d s)) ∨
      ∃ x, x ≠ .ok ∧ commandStatus .jump s.build = x ∧ jumpBy poly s = .next (raise x s) := by
  by_cases hv : s.build.variant = .rsx256
  · exact .inl ⟨if_pos hv, _, _, jumpBy_of_rsx256 poly hv⟩
  · exact .inr ⟨.unsupported, by decide, if_neg hv, jumpBy_of_ne_rsx256 poly hv⟩

/-- `exec_ends` with the status named. -/
theorem exec_ends_with_status (i : Instr) (s : State) :
    (commandStatus i s.build = .ok ∧ ∃ k d, exec i s = .next (complete k d s)) ∨
      ∃ x, x ≠ .ok ∧ commandStatus i s.build = x ∧ exec i s = .next (raise x s) := by
  cases i with
  | seed arg => exact .inl ⟨rfl, _, _, exec_seed arg s⟩
  | nextU64 => exact .inl ⟨rfl, _, _, exec_nextU64 s⟩
  | nextI63 => exact .inl ⟨rfl, _, _, exec_nextI63 s⟩
  | nextU32 =>
    by_cases hv : s.build.variant = .pcg32
    · exact .inl ⟨if_pos hv, _, _, exec_nextU32_of_pcg32 hv⟩
    · exact .inr ⟨.unsupported, by decide, if_neg hv, exec_nextU32_of_ne_pcg32 hv⟩
  | jump => exact jumpBy_ends_with_status jumpPoly s
  | longJump => exact jumpBy_ends_with_status longJumpPoly s
  | loadState idx arg =>
    by_cases outside : nidx s.build ≤ idx
    · exact .inr ⟨.badIndex, by decide, if_pos outside, exec_loadState_of_ge arg outside⟩
    · exact .inl ⟨if_neg outside, _, _, exec_loadState_of_lt arg (Nat.lt_of_not_le outside)⟩
  | readState idx =>
    by_cases outside : nidx s.build ≤ idx
    · exact .inr ⟨.badIndex, by decide, if_pos outside, exec_readState_of_ge outside⟩
    · exact .inl ⟨if_neg outside, _, _, exec_readState_of_lt (Nat.lt_of_not_le outside)⟩

/-! ## The status of a word -/

/-- The row `STATUS` finds for a word of the command `o` is the row of `o`: no other row selects the word. -/
theorem find?_row_of_accepts {o : Opcode} {w : CmdWord} (accepts : o.Accepts w) :
    ∃ r, opcodeRows.find? (fun r => r.selects w) = some r ∧ r.opcode = o := by
  match found : opcodeRows.find? (fun r => r.selects w) with
  | some r =>
    have selects : r.selects w = true := List.find?_some (p := fun q : OpcodeRow => q.selects w) found
    have r_accepts := (selects_iff_accepts (List.mem_of_find?_eq_some found) w).mp selects
    exact ⟨r, found, r_accepts.unique accepts⟩
  | none =>
    obtain ⟨r, hr, rfl⟩ := exists_row o
    exact absurd ((selects_iff_accepts hr w).mpr accepts) (List.find?_eq_none.mp found r hr)

theorem statusOf_of_ok {w : CmdWord} {i : Instr} (decodes : decode w = .ok i) (b : Build) :
    statusOf w b = commandStatus i b := by
  obtain ⟨o, accepts, rfl⟩ := decode_eq_ok_iff.mp decodes
  obtain ⟨r, found, hr⟩ := find?_row_of_accepts accepts
  rw [statusOf, found]
  cases o <;> simp [hr, Opcode.commandOf, commandStatus]

theorem statusOf_of_error {w : CmdWord} {e : Illegal} (illegal : decode w = .error e) (b : Build) :
    statusOf w b = .illegalOp := by
  have none_accepts := decode_eq_error_iff.mp ⟨e, illegal⟩
  have no_row : opcodeRows.find? (fun r => r.selects w) = none :=
    List.find?_eq_none.mpr fun r hr selects => none_accepts ⟨r.opcode, (selects_iff_accepts hr w).mp selects⟩
  rw [statusOf, no_row]

theorem runCommand_of_ok {w : CmdWord} {i : Instr} (decodes : decode w = .ok i) (s : State) :
    runCommand w s = exec i s := by
  rw [runCommand, decodes]

/-- An accepted word ends with `STATUS` of it: it completes where that is OK and is turned away with it otherwise. -/
theorem runCommand_ends_with_status (w : CmdWord) (s : State) :
    (statusOf w s.build = .ok ∧ ∃ k d, runCommand w s = .next (complete k d s)) ∨
      ∃ x, x ≠ .ok ∧ statusOf w s.build = x ∧ runCommand w s = .next (raise x s) := by
  match decoded : decode w with
  | .ok i =>
    rw [statusOf_of_ok decoded, runCommand_of_ok decoded]
    exact exec_ends_with_status i s
  | .error e => exact .inr ⟨.illegalOp, by decide, statusOf_of_error decoded _, runCommand_of_error decoded s⟩

/-- A step that accepts a word runs it on the state whose inbox has moved on. -/
theorem step_of_command {s : State} {w : CmdWord} {rest : List HostAction} (hinbox : s.inbox = .command w :: rest) :
    step s = runCommand w { s with inbox := rest } :=
  step_of_inbox hinbox

/-! ## The statements -/

/-- Settles O7: the status of the response is that of `runCommand_ends_with_status` in both cases; NIDX by the variant. -/
theorem commandStatusIsTheStatusFunction : Obligations.CommandStatusIsTheStatusFunction := by
  refine ⟨fun s w rest hinbox => ?_, fun b => ?_, rfl, rfl, rfl, rfl⟩
  · rw [step_of_command hinbox]
    obtain ⟨status_ok, k, d, completes⟩ | ⟨x, -, status_x, raises⟩ :=
      runCommand_ends_with_status w { s with inbox := rest }
    · exact ⟨_, _, completes, complete_rsp .., status_ok.symm⟩
    · exact ⟨_, _, raises, raise_rsp .., status_x.symm⟩
  · cases hv : b.variant <;> simp [nidx, nw, nc, hv]

/-- Settles O8: a word whose status is not OK is turned away, and `raise` writes nothing but the response. -/
theorem refusedCommandOnlyResponds : Obligations.RefusedCommandOnlyResponds := by
  intro s w rest hinbox refused
  rw [step_of_command hinbox]
  obtain ⟨status_ok, -⟩ | ⟨x, -, status_x, raises⟩ := runCommand_ends_with_status w { s with inbox := rest }
  · exact absurd status_ok refused
  · rw [raises, ← status_x]
    rfl

end Sys2Proof.Machine
end

section
/-! PROOFS. No step stops (60_exceptions.md R220), and the step of a system (R233). -/

namespace Sys2Proof.Machine

/-! ## Every step has a next state -/

theorem exec_has_next (i : Instr) (s : State) : ∃ t, exec i s = .next t := by
  obtain ⟨k, d, completes⟩ | ⟨x, -, raises⟩ := exec_ends i s
  · exact ⟨_, completes⟩
  · exact ⟨_, raises⟩

theorem runCommand_has_next (w : CmdWord) (s : State) : ∃ t, runCommand w s = .next t := by
  match decoded : decode w with
  | .ok i => exact runCommand_of_ok decoded s ▸ exec_has_next i s
  | .error e => exact ⟨_, runCommand_of_error decoded s⟩

theorem perform_has_next (a : HostAction) (s : State) : ∃ t, perform a s = .next t := by
  cases a with
  | command w => exact runCommand_has_next w s
  | idle | commandWhileBusy w => exact ⟨noResponse s, rfl⟩
  | reset shown | resetDuring w => exact ⟨hardReset s, rfl⟩

theorem step_has_next (s : State) : ∃ t, step s = .next t := perform_has_next _ _

/-- Settles O9: by the host action, and by the ways a command ends. -/
theorem everyCommandAndStepCompletes : Obligations.EveryCommandAndStepCompletes :=
  ⟨step_has_next, exec_has_next⟩

/-! ## Several instances -/

theorem step_eq_next_stepOr (s : State) : step s = .next (stepOr s) := by
  obtain ⟨t, ht⟩ := step_has_next s
  rw [stepOr, ht]

/-- Settles O57: `stepAt k` rewrites place `k` of the list with the step of the state there, and no other place. -/
theorem instancesShareNothing : Obligations.InstancesShareNothing := by
  refine ⟨fun sys k j other => ?_, fun sys k s hs => ?_, fun sys k j other => ?_⟩
  · exact List.getElem?_modify_ne stepOr sys other.symm
  · refine ⟨stepOr s, step_eq_next_stepOr s, ?_⟩
    rw [System.stepAt, List.getElem?_modify_eq, hs]
    rfl
  · exact List.modify_modify_ne stepOr stepOr sys other.symm

end Sys2Proof.Machine
end

section
/-! PROOFS. Reset (70_reset_and_hazards.md R250, R251): either way it comes, it leaves the reset state of the build, so nothing of
the old block, of the response or of the command shown. -/

namespace Sys2Proof.Machine

theorem resetBlock_words_length (b : Build) : (resetBlock b).words.length = nw b := (resetBlock_fits b).1

theorem resetBlock_cursors_length (b : Build) : (resetBlock b).cursors.length = nc b := (resetBlock_fits b).2

theorem hardReset_eq_resetOf (s : State) : hardReset s = { State.resetOf s.build with inbox := s.inbox } := rfl

theorem step_of_reset {s : State} {shown : Option CmdWord} {rest : List HostAction}
    (hinbox : s.inbox = .reset shown :: rest) :
    step s = .next { State.resetOf s.build with inbox := rest } := by
  rw [step_of_inbox hinbox, perform, hardReset_eq_resetOf]

theorem step_of_resetDuring {s : State} {w : CmdWord} {rest : List HostAction}
    (hinbox : s.inbox = .resetDuring w :: rest) :
    step s = .next { State.resetOf s.build with inbox := rest } := by
  rw [step_of_inbox hinbox, perform, hardReset_eq_resetOf]

/-- Settles O11: every reset steps to the reset state of the build, which depends on the build and the rest of the inbox only. -/
theorem resetZeroesTheStateBlock : Obligations.ResetZeroesTheStateBlock := by
  refine ⟨fun s shown rest hinbox => ?_, fun s₁ s₂ shown₁ shown₂ rest same_build hinbox₁ hinbox₂ => ?_,
    fun s w rest hinbox => ?_⟩
  · exact ⟨_, step_of_reset hinbox, resetBlock_words_length s.build, resetBlock_cursors_length s.build,
      fun i _ => resetBlock_word s.build i, fun j _ => resetBlock_cursor s.build j, rfl, rfl, rfl, rfl⟩
  · rw [step_of_reset hinbox₁, step_of_reset hinbox₂, same_build]
  · rw [step_of_resetDuring hinbox, step_of_reset rfl]

end Sys2Proof.Machine
end

section
/-! PROOFS. The encoder and the decoder are inverse to each other (30_encoding.md R72, R74). -/

namespace Sys2Proof

/-! ## The fields of an assembled word -/

@[simp] theorem fieldArg_assembleWord (op : BitVec 4) (idx : BitVec 7) (arg : Word) :
    fieldArg (assembleWord op idx arg) = arg :=
  BitVec.extractLsb'_append_eq_right

@[simp] theorem fieldIdx_assembleWord (op : BitVec 4) (idx : BitVec 7) (arg : Word) :
    fieldIdx (assembleWord op idx arg) = idx := by
  rw [fieldIdx, assembleWord, BitVec.extractLsb'_append_eq_of_le (by decide)]
  exact BitVec.extractLsb'_append_eq_right

@[simp] theorem fieldOp_assembleWord (op : BitVec 4) (idx : BitVec 7) (arg : Word) :
    fieldOp (assembleWord op idx arg) = op := by
  rw [fieldOp, assembleWord, BitVec.extractLsb'_append_eq_of_le (by decide),
    BitVec.extractLsb'_append_eq_of_le (by decide)]
  exact BitVec.extractLsb'_append_eq_left

/-! ## The round trips -/

/-- The word of a command is a word of its row: its own operation code, `rsv` zero, zero where no operand is taken. -/
theorem accepts_encode (i : Instr) : i.opcode.Accepts (encode i) := by
  refine ⟨fieldOp_assembleWord .., Laws.OwnRow.fieldRsv_assembleWord .., ?_, ?_⟩
  · rw [encode, fieldIdx_assembleWord]
    cases i <;> simp [Instr.opcode, Opcode.takesIdx, Instr.idxField]
  · rw [encode, fieldArg_assembleWord]
    cases i <;> simp [Instr.opcode, Opcode.takesArg, Instr.argField]

theorem toNat_ofNat_of_idxFits {idx : Nat} (fits : idxFits idx = true) : (BitVec.ofNat 7 idx).toNat = idx := by
  rw [BitVec.toNat_ofNat]
  exact Nat.mod_eq_of_lt (of_decide_eq_true fits)

/-- The operands are read back from the fields they were written to; an index because it fits its field. -/
theorem commandOf_encode {i : Instr} (well_formed : i.wf = true) : i.opcode.commandOf (encode i) = i := by
  cases i with
  | nextU64 | nextI63 | nextU32 | jump | longJump => rfl
  | seed arg => simp [Instr.opcode, Opcode.commandOf, encode, Instr.argField]
  | loadState idx arg =>
    simp [Instr.opcode, Opcode.commandOf, encode, Instr.argField, Instr.idxField, -BitVec.toNat_ofNat,
      toNat_ofNat_of_idxFits well_formed]
  | readState idx =>
    simp [Instr.opcode, Opcode.commandOf, encode, Instr.idxField, -BitVec.toNat_ofNat,
      toNat_ofNat_of_idxFits well_formed]

/-- Settles O1: the word of a command is one the decoder accepts for it, with the operands read back. -/
theorem decodeOfEncodeIsIdentity : Obligations.DecodeOfEncodeIsIdentity := by
  intro i well_formed
  rw [decode_of_accepts (accepts_encode i), commandOf_encode well_formed]

theorem commandOf_wf (o : Opcode) (w : CmdWord) : (o.commandOf w).wf = true := by
  cases o with
  | loadState | readState => exact decide_eq_true (fieldIdx w).isLt
  | seed | nextU64 | nextI63 | nextU32 | jump | longJump => rfl

/-- A word is determined by its fields, and the decoded command gives each of them back. -/
theorem encode_commandOf {o : Opcode} {w : CmdWord} (accepts : o.Accepts w) : encode (o.commandOf w) = w := by
  refine word_eq_iff_fields.mpr ⟨?_, ?_, ?_, ?_⟩
  · rw [encode, fieldOp_assembleWord, Opcode.commandOf_opcode, accepts.op]
  · obtain ⟨-, rsv_zero, -⟩ := accepts
    rw [encode, Laws.OwnRow.fieldRsv_assembleWord, rsv_zero]
  · rw [encode, fieldIdx_assembleWord, idxField_commandOf accepts]
  · rw [encode, fieldArg_assembleWord, argField_commandOf accepts]

/-- Settles O2: a word decodes to the command that accepts it, whose word it is. -/
theorem encodeOfDecodeIsIdentity : Obligations.EncodeOfDecodeIsIdentity := by
  intro w i decodes
  obtain ⟨o, accepts, rfl⟩ := decode_eq_ok_iff.mp decodes
  exact ⟨encode_commandOf accepts, commandOf_wf o w⟩

/-- Settles O5: the decoder run on each word. -/
theorem wordsOfTheOpcodeMapDecode : Obligations.WordsOfTheOpcodeMapDecode := by
  unfold Obligations.WordsOfTheOpcodeMapDecode
  decide

end Sys2Proof
end

section
/-! PROOFS. What a command and a step leave: the build, the pending host actions and the response
(10_state.md R32, 30_encoding.md R71, R77), and the invariant of the state block (10_state.md R20, R21). -/

namespace Sys2Proof.Machine

/-! ## What a command leaves -/

/-- `t` is `s` moved by a command: build and inbox as they were, a response with the given status, and where that is a refusal
the data 0 and the block as it was. -/
structure Answers (x : Status) (s t : State) : Prop where
  build : t.build = s.build
  inbox : t.inbox = s.inbox
  rsp : ∃ d, t.rsp = some ⟨x, d⟩ ∧ (x ≠ .ok → d = 0)
  block : x ≠ .ok → t.block = s.block

theorem complete_answers (k : Block) (d : Word) (s : State) : Answers .ok s (complete k d s) :=
  ⟨rfl, rfl, ⟨d, rfl, absurd rfl⟩, absurd rfl⟩

theorem raise_answers (x : Status) (s : State) : Answers x s (raise x s) :=
  ⟨rfl, rfl, ⟨0, rfl, fun _ => rfl⟩, fun _ => rfl⟩

/-- A command answers with its status, by the two ways it ends. -/
theorem exec_answers {i : Instr} {s t : State} (ht : exec i s = .next t) : Answers (commandStatus i s.build) s t := by
  obtain ⟨status_ok, k, d, completes⟩ | ⟨x, -, status_x, raises⟩ := exec_ends_with_status i s
  · rw [completes] at ht
    cases ht
    exact status_ok ▸ complete_answers k d s
  · rw [raises] at ht
    cases ht
    exact status_x ▸ raise_answers x s

/-- An accepted word answers with `STATUS` of it. -/
theorem runCommand_answers {w : CmdWord} {s t : State} (ht : runCommand w s = .next t) :
    Answers (statusOf w s.build) s t := by
  match decoded : decode w with
  | .ok i =>
    rw [runCommand_of_ok decoded] at ht
    exact statusOf_of_ok decoded s.build ▸ exec_answers ht
  | .error e =>
    rw [runCommand_of_error decoded] at ht
    cases ht
    exact statusOf_of_error decoded s.build ▸ raise_answers .illegalOp s

/-! ## The invariant -/

theorem Answers.responseFits {x : Status} {s t : State} (h : Answers x s t) : ∀ r ∈ t.rsp, responseFits r := by
  obtain ⟨d, rsp, refusal_zero⟩ := h.rsp
  rw [rsp]
  rintro r ⟨⟩
  exact refusal_zero

theorem runCommand_fits {w : CmdWord} {s t : State} (fits : blockFits s.build s.block) (ht : runCommand w s = .next t) :
    blockFits s.build t.block := by
  match decoded : decode w with
  | .ok i => exact exec_fits fits (runCommand_of_ok decoded s ▸ ht)
  | .error e =>
    rw [runCommand_of_error decoded] at ht
    cases ht
    exact fits

/-- One host action: an accepted word by the lemmas above, a reset to the reset block, anything else leaves the block. -/
theorem perform_keeps_inv {a : HostAction} {s t : State} (inv : s.Inv) (ht : perform a s = .next t) :
    t.Inv ∧ t.build = s.build := by
  obtain ⟨build_wf, fits, -⟩ := inv
  cases a with
  | command w =>
    have answers := runCommand_answers ht
    rw [State.Inv, answers.build]
    exact ⟨⟨build_wf, runCommand_fits fits ht, answers.responseFits⟩, rfl⟩
  | idle | commandWhileBusy w =>
    cases ht
    exact ⟨⟨build_wf, fits, by simp⟩, rfl⟩
  | reset shown | resetDuring w =>
    cases ht
    exact ⟨⟨build_wf, resetBlock_fits s.build, by simp⟩, rfl⟩

theorem takeAction_build (s : State) : (takeAction s).2.build = s.build := by
  rw [takeAction]
  split <;> rfl

theorem takeAction_keeps_inv {s : State} (inv : s.Inv) : (takeAction s).2.Inv := by
  rw [takeAction]
  split <;> exact inv

/-- Settles O14: taking an action and performing it each keep the invariant and the build, and the build fixes the strap. -/
theorem everyStepKeepsTheInvariant : Obligations.EveryStepKeepsTheInvariant := by
  intro s t inv ht
  obtain ⟨t_inv, performed⟩ := perform_keeps_inv (takeAction_keeps_inv inv) ht
  have build : t.build = s.build := performed.trans (takeAction_build s)
  rw [variantId_eq, variantId_eq, build]
  refine ⟨t_inv, rfl, rfl, ?_⟩
  cases s.build.variant <;> decide

/-- Settles O13: the reset block has the shape of the build, and no response is presented. -/
theorem resetStateMeetsTheInvariant : Obligations.ResetStateMeetsTheInvariant := by
  have reset_inv (b : Build) (wf : b.wf = true) : (State.resetOf b).Inv := ⟨wf, resetBlock_fits b, by simp⟩
  exact ⟨reset_inv, reset_inv _ (by decide)⟩

/-! ## The frame -/

theorem exec_readState_block {idx : Nat} {s t : State} (ht : exec (.readState idx) s = .next t) : t.block = s.block := by
  by_cases valid : idx < nidx s.build
  · rw [exec_readState_of_lt valid] at ht
    cases ht
    rfl
  · rw [exec_readState_of_ge (Nat.le_of_not_lt valid)] at ht
    cases ht
    rfl

theorem readIndex_of_exec_loadState {idx : Nat} {arg : Word} {s t : State} (ht : exec (.loadState idx arg) s = .next t)
    {j : Nat} (other : j ≠ idx) : readIndex t.build t.block j = readIndex s.build s.block j := by
  by_cases valid : idx < nidx s.build
  · rw [exec_loadState_of_lt arg valid] at ht
    cases ht
    exact readIndex_writeIndex_ne s.block arg other
  · rw [exec_loadState_of_ge arg (Nat.le_of_not_lt valid)] at ht
    cases ht
    rfl

/-- Settles O15: the frame of every command is `Answers`; SEED's block has no state in it; LOAD_STATE by the read-after-write
law; READ_STATE presents only. -/
theorem commandsTouchOnlyWhatTheTableNames : Obligations.CommandsTouchOnlyWhatTheTableNames := by
  refine ⟨fun i s t ht => ?_, fun arg s₁ s₂ t₁ t₂ same_build ht₁ ht₂ => ?_,
    fun _ _ _ _ ht _ other => readIndex_of_exec_loadState ht other, fun _ _ _ ht => exec_readState_block ht⟩
  · obtain ⟨build, inbox, ⟨d, rsp, -⟩, block⟩ := exec_answers ht
    exact ⟨build, inbox, _, rsp, block⟩
  · rw [exec_seed] at ht₁ ht₂
    cases ht₁
    cases ht₂
    rw [complete_block, complete_block, same_build]

/-! ## The step -/

/-- Settles O6: a step on an inbox that begins with a word runs the word; `withFetchWord` puts one there. -/
theorem stepRunsTheDecodedCommand : Obligations.StepRunsTheDecodedCommand := by
  have run_first (s : State) (w : CmdWord) (rest : List HostAction) (i : Instr) (hinbox : s.inbox = .command w :: rest)
      (decodes : decode w = .ok i) : step s = exec i { s with inbox := rest } := by
    rw [step_of_command hinbox, runCommand_of_ok decodes]
  refine ⟨run_first, fun s nbits n w i table_word decodes => ?_⟩
  rw [State.withFetchWord, table_word]
  exact run_first (presentFirst w s) w s.inbox i rfl decodes

/-- Settles O10: each is an idle cycle. -/
theorem withoutAnAcceptedCommandNothingChanges : Obligations.WithoutAnAcceptedCommandNothingChanges :=
  ⟨fun _ hinbox => step_of_inbox_nil hinbox, fun _ _ hinbox => step_of_inbox hinbox,
    fun _ _ _ hinbox => step_of_inbox hinbox⟩

/-- Settles O18: SEED is `complete` with the seed function's block. -/
theorem seedCompletesOnEveryVariant : Obligations.SeedCompletesOnEveryVariant := exec_seed

/-- Settles O19: NEXT_U64 is `complete` with what the step function returns. -/
theorem nextU64CompletesOnEveryVariant : Obligations.NextU64CompletesOnEveryVariant := exec_nextU64

end Sys2Proof.Machine
end

section
/-! PROOFS. What the host observes of a run of command words (00_scope.md R7): one response per word with the status of that
word, and nothing of the past once a SEED was accepted. -/

namespace Sys2Proof.Machine

/-- A state whose pending actions are the words `ws` is one to which the host presents `ws`. -/
theorem eq_feed {s : State} {ws : List CmdWord} (hinbox : s.inbox = ws.map .command) : feed ws s = s := by
  rw [feed, ← hinbox]

theorem trace_succ {s t : State} (ht : step s = .next t) (n : Nat) : trace (n + 1) s = t.rsp :: trace n t := by
  rw [trace, ht]

/-- The first of the words presented is the one the next step runs, with the other words pending. -/
theorem step_feed_cons (w : CmdWord) (ws : List CmdWord) (s : State) :
    step (feed (w :: ws) s) = runCommand w (feed ws s) :=
  step_of_command rfl

/-- Settles O16: by induction on the words; the step on the first answers with its status and leaves the others pending. -/
theorem responsesPairWithCommands : Obligations.ResponsesPairWithCommands := by
  intro ws
  induction ws with
  | nil => exact fun s => rfl
  | cons w ws ih =>
    intro s
    obtain ⟨t, ht⟩ := runCommand_has_next w (feed ws s)
    obtain ⟨build, inbox, ⟨d, rsp, -⟩, -⟩ := runCommand_answers ht
    have rest := ih t
    rw [eq_feed inbox, build] at rest
    rw [List.length_cons, trace_succ ((step_feed_cons w ws s).trans ht), List.map_cons, List.map_cons, rest, rsp]
    rfl

/-- The state after SEED depends on the build, the argument and the pending words only. -/
theorem step_feed_seed (arg : Word) (ws : List CmdWord) (s : State) :
    step (feed (encode (.seed arg) :: ws) s) =
      .next { build := s.build, block := seedFn s.build arg, inbox := ws.map .command, rsp := okResponse 0 } := by
  rw [step_feed_cons, runCommand_of_ok (decodeOfEncodeIsIdentity (.seed arg) rfl)]
  exact exec_seed arg (feed ws s)

/-- Settles O17: from the step after SEED on the two runs are one run. -/
theorem seedForgetsThePast : Obligations.SeedForgetsThePast := by
  intro s₁ s₂ arg ws n same_build
  cases n with
  | zero => rfl
  | succ n => rw [trace_succ (step_feed_seed arg ws s₁), trace_succ (step_feed_seed arg ws s₂), same_build]

end Sys2Proof.Machine
end

section
/-! PROOFS. A list of commands performed in order, and the pseudo-instruction LOAD_ALL (30_encoding.md R80). -/

namespace Sys2Proof.Machine

/-! ## Lists of commands -/

theorem execAll_cons {i : Instr} {s t : State} (ht : exec i s = .next t) (is : List Instr) :
    execAll (i :: is) s = execAll is t := by
  rw [execAll, ht]

theorem execAll_append {is : List Instr} {s t : State} (ht : execAll is s = .next t) (js : List Instr) :
    execAll (is ++ js) s = execAll js t := by
  induction is generalizing s with
  | nil =>
    cases ht
    rfl
  | cons i is ih =>
    obtain ⟨u, hu⟩ := exec_has_next i s
    rw [execAll_cons hu] at ht
    rw [List.cons_append, execAll_cons hu, ih ht]

/-! ## LOAD_ALL -/

/-- What index `j` reads after `arg` was loaded there: a word as given, a cursor modulo LFIB_K
(40_common_interface.md R107). -/
def loadedValue (b : Build) (j : Nat) (arg : Word) : Word :=
  if j < nw b then arg else BitVec.ofNat 64 (arg.toNat % 64)

/-- `t` is `s` after the words `ws` were loaded at the indices from `idx` on: there each index reads its word, every other
index reads as in `s`, and nothing else moved. -/
structure LoadedFrom (idx : Nat) (ws : List Word) (s t : State) : Prop where
  build : t.build = s.build
  inbox : t.inbox = s.inbox
  fits : blockFits t.build t.block
  loaded : ∀ j < ws.length, readIndex t.build t.block (idx + j) = loadedValue s.build (idx + j) (ws.getD j 0)
  kept : ∀ j < idx, readIndex t.build t.block j = readIndex s.build s.block j

/-- By induction on the words: the first load writes its index, which the later ones, all beyond it, keep. -/
theorem execAll_loadsFrom (ws : List Word) {idx : Nat} {s : State} (fits : blockFits s.build s.block)
    (room : idx + ws.length ≤ nidx s.build) : ∃ t, execAll (loadsFrom idx ws) s = .next t ∧ LoadedFrom idx ws s t := by
  induction ws generalizing idx s with
  | nil => exact ⟨s, rfl, rfl, rfl, fits, fun j hj => absurd hj (Nat.not_lt_zero j), fun _ _ => rfl⟩
  | cons w ws ih =>
    rw [List.length_cons] at room
    have valid : idx < nidx s.build := by omega
    obtain ⟨t, ht, build, inbox, t_fits, loaded, kept⟩ :=
      ih (idx := idx + 1) (s := complete (writeIndex s.build s.block idx w) 0 s) (writeIndex_fits idx w fits)
        (by rw [complete_build]; omega)
    simp only [complete_build, complete_block, complete_inbox] at build inbox loaded kept
    refine ⟨t, (execAll_cons (exec_loadState_of_lt w valid) _).trans ht, build, inbox, t_fits, fun j hj => ?_,
      fun j hj => ?_⟩
    · cases j with
      | zero => exact (kept idx (Nat.lt_succ_self idx)).trans (readIndex_writeIndex_same w fits valid)
      | succ j =>
        rw [Nat.add_comm j 1, ← Nat.add_assoc idx 1 j, Nat.add_comm 1 j, List.getD_cons_succ]
        exact loaded j (Nat.lt_of_succ_lt_succ hj)
    · rw [kept j (Nat.lt_succ_of_lt hj), readIndex_writeIndex_ne s.block w hj.ne]

/-- Settles O24: LOAD_ALL loads from index 0 on, as many words as there are indices. -/
theorem loadAllLoadsEveryIndex : Obligations.LoadAllLoadsEveryIndex := by
  intro s ws is fits expands
  rw [Pseudo.expand] at expands
  split at expands <;> cases expands
  rename_i words_length
  obtain ⟨t, ht, build, inbox, t_fits, loaded, -⟩ := execAll_loadsFrom ws fits (idx := 0) (by omega)
  simp only [Nat.zero_add, words_length] at loaded
  refine ⟨t, ht, build, inbox, t_fits, fun i is_word => ?_, fun i is_cursor valid => ?_⟩
  · rw [loaded i (Nat.lt_add_right _ is_word), loadedValue, if_pos is_word]
  · rw [loaded i valid, loadedValue, if_neg is_cursor.not_gt]

end Sys2Proof.Machine
end

section
/-! PROOFS. The rotates (00_scope.md R13): `rotr32` in the library's terms as `rotl64` is already, and where each bit goes. -/

namespace Sys2Proof.Machine

theorem rotr32_eq_rotateRight (x : Half) (k : Nat) (h : k < 32) : rotr32 x k = x.rotateRight k := by
  unfold rotr32
  split
  · subst_vars
    have h0 : x <<< 32 = 0#32 := BitVec.shiftLeft_eq_zero le_rfl
    simp [BitVec.rotateRight, BitVec.rotateRightAux, h0]
  · rw [BitVec.rotateRight, Nat.mod_eq_of_lt h, BitVec.rotateRightAux]

theorem rotl64_getLsbD (x : Word) {k i : Nat} (hk : k < 64) (hi : i < 64) :
    (rotl64 x k).getLsbD i = x.getLsbD ((i + 64 - k) % 64) := by
  rw [rotl64_eq_rotateLeft x k hk, BitVec.getLsbD_rotateLeft_of_le hk]
  by_cases wraps : i < k
  · have source : (i + 64 - k) % 64 = 64 - k + i := by omega
    simp only [wraps, source, decide_true, cond_true]
  · have source : (i + 64 - k) % 64 = i - k := by omega
    simp only [wraps, source, hi, decide_true, decide_false, cond_false, Bool.true_and]

theorem rotr64_getLsbD (x : Word) {k i : Nat} (hk : k < 64) (hi : i < 64) :
    (rotr64 x k).getLsbD i = x.getLsbD ((i + k) % 64) := by
  rw [rotr64, rotl64_getLsbD x (Nat.mod_lt _ (by decide)) hi]
  congr 1
  omega

/-- The library's rotate to the right, its two ranges of bits as one remainder. -/
theorem getLsbD_rotateRight_eq_mod {w : Nat} (x : BitVec w) {k i : Nat} (hk : k < w) (hi : i < w) :
    (x.rotateRight k).getLsbD i = x.getLsbD ((i + k) % w) := by
  rw [BitVec.getLsbD_rotateRight_of_lt hk]
  by_cases stays : i < w - k
  · have source : (i + k) % w = k + i := by
      rw [Nat.mod_eq_of_lt (by omega), Nat.add_comm]
    simp only [stays, source, decide_true, cond_true]
  · have source : (i + k) % w = i - (w - k) := by
      rw [Nat.mod_eq_sub_mod (by omega), Nat.mod_eq_of_lt (by omega)]
      omega
    simp only [stays, source, hi, decide_true, decide_false, cond_false, Bool.true_and]

theorem rotr32_getLsbD (x : Half) {k i : Nat} (hk : k < 32) (hi : i < 32) :
    (rotr32 x k).getLsbD i = x.getLsbD ((i + k) % 32) := by
  rw [rotr32_eq_rotateRight x k hk, getLsbD_rotateRight_eq_mod x hk hi]

/-- Settles O26: one lemma per rotate. -/
theorem rotatesMoveBitsCyclically : Obligations.RotatesMoveBitsCyclically :=
  ⟨fun x _ _ hk hi => rotl64_getLsbD x hk hi, fun x _ _ hk hi => rotr64_getLsbD x hk hi,
    fun x _ _ hk hi => rotr32_getLsbD x hk hi⟩

end Sys2Proof.Machine
end

section
/-! PROOFS. A run of NEXT_U64: the block is the step function iterated, the response that of the last step. -/

namespace Sys2Proof.Machine

/-- The block one NEXT_U64 leaves (40_common_interface.md R104). -/
def nextBlock (b : Build) (k : Block) : Block := (stepFn b k).1

/-- By induction on the commands before the last: each replaces the block and the response the one before it left. -/
theorem execAll_replicate_nextU64_succ (n : Nat) (s : State) :
    execAll (List.replicate (n + 1) .nextU64) s =
      .next { s with
        block := (nextBlock s.build)^[n + 1] s.block
        rsp := okResponse (stepFn s.build ((nextBlock s.build)^[n] s.block)).2 } := by
  induction n generalizing s with
  | zero => exact execAll_cons (exec_nextU64 s) []
  | succ n ih => exact (execAll_cons (exec_nextU64 s) _).trans (ih _)

/-- The block and the frame of a run that may be empty. -/
theorem execAll_replicate_nextU64 (n : Nat) (s : State) :
    ∃ t, execAll (List.replicate n .nextU64) s = .next t ∧ t.build = s.build ∧
      t.block = (nextBlock s.build)^[n] s.block := by
  cases n with
  | zero => exact ⟨s, rfl, rfl, rfl⟩
  | succ n => exact ⟨_, execAll_replicate_nextU64_succ n s, rfl, rfl⟩

end Sys2Proof.Machine
end

section
/-! PROOFS. Variant 1 and the SplitMix fill (42_splitmix.md): the output map is a bijection, its argument a Weyl sequence, and
the words of a fill are its values. -/

namespace Sys2Proof.Machine

/-! ## The output map -/

/-- A word that equals itself shifted right is zero, so the difference of two words with the same image is. -/
theorem xorShift_injective {k : Nat} (shifts : 0 < k) : Function.Injective fun z : Word => z ^^^ (z >>> k) := by
  have eq_zero_of_fixed (d : Word) (fixed : d >>> k = d) : d = 0 := by
    by_contra nonzero
    have smaller : d.toNat / 2 ^ k < d.toNat :=
      Nat.div_lt_self (Nat.pos_of_ne_zero fun h => nonzero (BitVec.eq_of_toNat_eq h)) (Nat.one_lt_two_pow shifts.ne')
    rw [← Nat.shiftRight_eq_div_pow, ← BitVec.toNat_ushiftRight, fixed] at smaller
    exact smaller.false
  intro x y same_image
  refine BitVec.xor_eq_zero_iff.mp (eq_zero_of_fixed (x ^^^ y) ?_)
  have difference : (x ^^^ (x >>> k)) ^^^ (y ^^^ (y >>> k)) = 0#64 := BitVec.xor_eq_zero_iff.mpr same_image
  rw [BitVec.ushiftRight_xor_distrib]
  refine (BitVec.xor_eq_zero_iff.mp ?_).symm
  rw [← difference]
  ac_rfl

/-- Multiplication by a constant that has an inverse modulo 2^64. -/
theorem mul_const_injective {c inverse : Word} (h : c * inverse = 1#64) : Function.Injective fun z : Word => z * c := by
  intro x y same_image
  calc x = x * c * inverse := by rw [BitVec.mul_assoc, h, BitVec.mul_one]
    _ = y * c * inverse := congrArg (· * inverse) same_image
    _ = y := by rw [BitVec.mul_assoc, h, BitVec.mul_one]

/-- Each round of the mix is injective (42_splitmix.md R145). -/
theorem smMix_injective : Function.Injective smMix :=
  (xorShift_injective (k := smSh3) (by decide)).comp <|
    (mul_const_injective (c := smC2) (inverse := 0x319642b2d24d8ec3) (by decide)).comp <|
      (xorShift_injective (k := smSh2) (by decide)).comp <|
        (mul_const_injective (c := smC1) (inverse := 0x96de1b173f119089) (by decide)).comp <|
          xorShift_injective (k := smSh1) (by decide)

theorem smMix_ne_zero_or {x y : Word} (differ : x ≠ y) : smMix x ≠ 0 ∨ smMix y ≠ 0 := by
  by_contra! both_zero
  exact differ (smMix_injective (both_zero.1.trans both_zero.2.symm))

theorem add_smGamma_ne (z : Word) : z ≠ z + smGamma := by
  rw [ne_eq, BitVec.self_eq_add_right]
  decide

/-- Settles O32: an injection of a finite type is a bijection; two consecutive outputs are mixes of different words. -/
theorem splitMixOutputIsABijection : Obligations.SplitMixOutputIsABijection :=
  ⟨Finite.injective_iff_bijective.mp smMix_injective, fun s => smMix_ne_zero_or (add_smGamma_ne (s + smGamma))⟩

/-! ## The state of variant 1 -/

theorem ofNat_succ_mul (n : Nat) (c : Word) : BitVec.ofNat 64 (n + 1) * c = BitVec.ofNat 64 n * c + c := by
  rw [BitVec.ofNat_add, BitVec.add_mul]
  exact congrArg _ (BitVec.one_mul c)

theorem stepFn_splitmix_word {b : Build} (hv : b.variant = .splitmix) (a : Word) :
    stepFn b ⟨[a], []⟩ = (⟨[a + smGamma], []⟩, smMix (a + smGamma)) :=
  stepFn_splitmix _ _ hv

theorem nextBlock_splitmix {b : Build} (hv : b.variant = .splitmix) (a : Word) :
    nextBlock b ⟨[a], []⟩ = ⟨[a + smGamma], []⟩ := by
  rw [nextBlock, stepFn_splitmix_word hv]

theorem iterate_nextBlock_splitmix {b : Build} (hv : b.variant = .splitmix) (a : Word) (n : Nat) :
    (nextBlock b)^[n] ⟨[a], []⟩ = ⟨[a + BitVec.ofNat 64 n * smGamma], []⟩ := by
  induction n with
  | zero => simp
  | succ n ih => rw [Function.iterate_succ_apply', ih, nextBlock_splitmix hv, ofNat_succ_mul, BitVec.add_assoc]

/-- Settles O31: SEED leaves the seed, `n + 1` steps add the increment as often, and the last output is the mix of the sum. -/
theorem splitMixStateIsAWeylSequence : Obligations.SplitMixStateIsAWeylSequence := by
  refine ⟨fun z => ⟨_, _, rfl, rfl, rfl⟩, fun s a n hv => ?_⟩
  have gamma : (0x9e3779b97f4a7c15 : Word) = smGamma := rfl
  have seeded : seedFn s.build a = ⟨[a], []⟩ := seedFn_splitmix s.build a hv
  rw [execAll_cons (exec_seed a s), execAll_replicate_nextU64_succ, complete_build, complete_block, seeded,
    iterate_nextBlock_splitmix hv, iterate_nextBlock_splitmix hv, stepFn_splitmix_word hv, gamma, ofNat_succ_mul,
    ← BitVec.add_assoc]
  rfl

/-! ## The fill -/

theorem smFill_eq_map (arg : Word) (n : Nat) :
    smFill arg n = (List.range n).map fun k => smMix (arg + BitVec.ofNat 64 (k + 1) * smGamma) := by
  refine List.ext_getElem? fun k => ?_
  by_cases hk : k < n
  · rw [smFill_getElem? arg n k hk, List.getElem?_map, List.getElem?_range hk, Option.map_some]
  · simp [Nat.le_of_not_lt hk]

/-- The first two words of a fill are not both zero, being mixes of different words. -/
theorem smFill_has_nonzero (arg : Word) {n : Nat} (two_words : 2 ≤ n) : ∃ w ∈ smFill arg n, w ≠ 0 := by
  obtain ⟨m, rfl⟩ := Nat.exists_eq_add_of_le' two_words
  obtain w0_nonzero | w1_nonzero := smMix_ne_zero_or (add_smGamma_ne (arg + smGamma))
  · exact ⟨_, List.mem_cons_self, w0_nonzero⟩
  · exact ⟨_, List.mem_cons_of_mem _ List.mem_cons_self, w1_nonzero⟩

/-- Settles O33: SEED fills four words; the arguments of the first two mixes differ by the increment. -/
theorem seedOnRsx256FillsFourWords : Obligations.SeedOnRsx256FillsFourWords := by
  intro arg s hv
  refine ⟨_, _, _, _, ?_, rfl, rfl, rfl, rfl, smMix_ne_zero_or ?_⟩
  · rw [exec_seed, seedFn_rsx256 _ _ hv, seedRsx256, blockOfFill, smFill_eq_map]
    rfl
  · rw [ne_eq, BitVec.add_right_inj]
    decide

end Sys2Proof.Machine
end

section
/-! PROOFS. The update of variant 2 (43_rsx256.md R152 to R156): linear over GF(2), invertible, the all-zero state fixed. -/

namespace Sys2Proof.Machine

/-! ## Word-wise exclusive or -/

theorem rsx_ext {x y : Rsx} (h0 : x.w0 = y.w0) (h1 : x.w1 = y.w1) (h2 : x.w2 = y.w2) (h3 : x.w3 = y.w3) : x = y := by
  cases x
  cases y
  simp_all

/-- The all-zero state (43_rsx256.md R155). -/
abbrev rsxZero : Rsx := ⟨0, 0, 0, 0⟩

@[simp] theorem rsxXor_zero (x : Rsx) : rsxXor x rsxZero = x :=
  rsx_ext BitVec.xor_zero BitVec.xor_zero BitVec.xor_zero BitVec.xor_zero

@[simp] theorem zero_rsxXor (x : Rsx) : rsxXor rsxZero x = x :=
  rsx_ext BitVec.zero_xor BitVec.zero_xor BitVec.zero_xor BitVec.zero_xor

theorem rsxXor_comm (x y : Rsx) : rsxXor x y = rsxXor y x :=
  rsx_ext (BitVec.xor_comm _ _) (BitVec.xor_comm _ _) (BitVec.xor_comm _ _) (BitVec.xor_comm _ _)

theorem rsxXor_assoc (x y z : Rsx) : rsxXor (rsxXor x y) z = rsxXor x (rsxXor y z) :=
  rsx_ext (BitVec.xor_assoc _ _ _) (BitVec.xor_assoc _ _ _) (BitVec.xor_assoc _ _ _) (BitVec.xor_assoc _ _ _)

theorem rsxXor_rsxXor_rsxXor_comm (x y z u : Rsx) :
    rsxXor (rsxXor x y) (rsxXor z u) = rsxXor (rsxXor x z) (rsxXor y u) := by
  rw [rsxXor_assoc, rsxXor_assoc, ← rsxXor_assoc y, rsxXor_comm y z, rsxXor_assoc z]

theorem rsxXor_eq_zero_iff {x y : Rsx} : rsxXor x y = rsxZero ↔ x = y := by
  constructor
  · intro h
    obtain ⟨h0, h1, h2, h3⟩ := Rsx.mk.inj h
    exact rsx_ext (BitVec.xor_eq_zero_iff.mp h0) (BitVec.xor_eq_zero_iff.mp h1) (BitVec.xor_eq_zero_iff.mp h2)
      (BitVec.xor_eq_zero_iff.mp h3)
  · rintro rfl
    exact rsx_ext BitVec.xor_self BitVec.xor_self BitVec.xor_self BitVec.xor_self

@[simp] theorem rsxXor_self (x : Rsx) : rsxXor x x = rsxZero := rsxXor_eq_zero_iff.mpr rfl

/-! ## Linearity -/

theorem rsxUpdate_w0 (r : Rsx) : (rsxUpdate r).w0 = r.w0 ^^^ (r.w3 ^^^ r.w1) := rfl
theorem rsxUpdate_w1 (r : Rsx) : (rsxUpdate r).w1 = r.w1 ^^^ (r.w2 ^^^ r.w0) := rfl
theorem rsxUpdate_w2 (r : Rsx) : (rsxUpdate r).w2 = (r.w2 ^^^ r.w0) ^^^ (r.w1 <<< rsxShift) := rfl
theorem rsxUpdate_w3 (r : Rsx) : (rsxUpdate r).w3 = rotl64 (r.w3 ^^^ r.w1) rsxRot := rfl

theorem xor_xor_xor_comm (x y z u : Word) : (x ^^^ y) ^^^ (z ^^^ u) = (x ^^^ z) ^^^ (y ^^^ u) := by
  ac_rfl

theorem rotl64_xor (x y : Word) {k : Nat} (hk : k < 64) : rotl64 (x ^^^ y) k = rotl64 x k ^^^ rotl64 y k := by
  refine BitVec.eq_of_getLsbD_eq fun i hi => ?_
  simp only [BitVec.getLsbD_xor, rotl64_getLsbD _ hk hi]

/-- Every line of R152 is an exclusive or, a shift or a rotate, and each is linear. -/
theorem rsxUpdate_rsxXor (x y : Rsx) : rsxUpdate (rsxXor x y) = rsxXor (rsxUpdate x) (rsxUpdate y) := by
  refine rsx_ext ?_ ?_ ?_ ?_
  · simp only [rsxUpdate_w0, rsxXor, xor_xor_xor_comm]
  · simp only [rsxUpdate_w1, rsxXor, xor_xor_xor_comm]
  · simp only [rsxUpdate_w2, rsxXor, xor_xor_xor_comm, BitVec.shiftLeft_xor_distrib]
  · rw [rsxUpdate_w3, rsxXor, rsxXor, xor_xor_xor_comm]
    exact rotl64_xor _ _ (by decide)

/-- Settles O35: by the linearity of every line of the update. -/
theorem rsxUpdateIsLinear : Obligations.RsxUpdateIsLinear := rsxUpdate_rsxXor

@[simp] theorem rsxUpdate_zero : rsxUpdate rsxZero = rsxZero := by decide

/-! ## Invertibility -/

theorem rotl64_rotr64 (x : Word) {k : Nat} (hk : k < 64) : rotl64 (rotr64 x k) k = x := by
  refine BitVec.eq_of_getLsbD_eq fun i hi => ?_
  rw [rotl64_getLsbD _ hk hi, rotr64_getLsbD _ hk (Nat.mod_lt _ (by decide))]
  congr 1
  omega

theorem rotr64_rotl64 (x : Word) {k : Nat} (hk : k < 64) : rotr64 (rotl64 x k) k = x := by
  refine BitVec.eq_of_getLsbD_eq fun i hi => ?_
  rw [rotr64_getLsbD _ hk hi, rotl64_getLsbD _ hk (Nat.mod_lt _ (by decide))]
  congr 1
  omega

theorem eq_zero_of_rotl64_eq_zero {x : Word} {k : Nat} (hk : k < 64) (h : rotl64 x k = 0) : x = 0 := by
  have rotate_zero : rotr64 0 k = 0 := by
    refine BitVec.eq_of_getLsbD_eq fun i hi => ?_
    rw [rotr64_getLsbD _ hk hi]
    simp
  rw [← rotr64_rotl64 x hk, h, rotate_zero]

/-- Four shifts by 17 leave nothing of a 64-bit word. -/
theorem eq_zero_of_eq_shiftLeft {x : Word} (h : x = x <<< rsxShift) : x = 0 := by
  rw [h, h, h, h, ← BitVec.shiftLeft_add, ← BitVec.shiftLeft_add, ← BitVec.shiftLeft_add]
  exact BitVec.shiftLeft_eq_zero (by decide)

/-- The words of the old state from those of the update, last first: `w3 = w1` and `w0 = 0`, then `w1 = w2`, then `w2 = 0`. -/
theorem eq_zero_of_rsxUpdate_eq_zero {r : Rsx} (h : rsxUpdate r = rsxZero) : r = rsxZero := by
  obtain ⟨h0, h1, h2, h3⟩ := Rsx.mk.inj h
  have a3_zero : r.w3 ^^^ r.w1 = 0 := eq_zero_of_rotl64_eq_zero (by decide) h3
  have w0_zero : r.w0 = 0 := by rwa [a3_zero, BitVec.ofNat_eq_ofNat, BitVec.xor_zero] at h0
  rw [w0_zero, BitVec.ofNat_eq_ofNat, BitVec.xor_zero] at h1 h2
  have w1_eq : r.w1 = r.w2 := BitVec.xor_eq_zero_iff.mp h1
  have w2_zero : r.w2 = 0 := by
    rw [w1_eq] at h2
    exact eq_zero_of_eq_shiftLeft (BitVec.xor_eq_zero_iff.mp h2)
  have w1_zero : r.w1 = 0 := w1_eq.trans w2_zero
  exact rsx_ext w0_zero w1_zero w2_zero ((BitVec.xor_eq_zero_iff.mp a3_zero).trans w1_zero)

/-- A linear map without kernel. -/
theorem rsxUpdate_injective : Function.Injective rsxUpdate := by
  intro x y same_image
  refine rsxXor_eq_zero_iff.mp (eq_zero_of_rsxUpdate_eq_zero ?_)
  rw [rsxUpdate_rsxXor, same_image, rsxXor_self]

theorem finite_rsx : Finite Rsx :=
  Finite.of_injective (fun r : Rsx => (r.w0, r.w1, r.w2, r.w3)) fun x y h => by
    obtain ⟨h0, h1, h2, h3⟩ : _ ∧ _ ∧ _ ∧ _ := by simpa using h
    exact rsx_ext h0 h1 h2 h3

/-- Settles O36: injective on a finite type, and zero at zero only. -/
theorem rsxUpdateIsInvertibleAndFixesZero : Obligations.RsxUpdateIsInvertibleAndFixesZero :=
  have := finite_rsx
  ⟨Finite.injective_iff_bijective.mp rsxUpdate_injective, by decide,
    fun _ nonzero step_zero => nonzero (eq_zero_of_rsxUpdate_eq_zero step_zero)⟩

/-! ## NEXT_U64 -/

/-- Settles O34: the lines of R152 with the intermediates put in, the words of each sum in the order of the statement. -/
theorem nextOnRsx256InClosedForm : Obligations.NextOnRsx256InClosedForm := by
  rintro s _ _ _ _ hv rfl rfl rfl rfl
  have update : rsxUpdate (rsxOfBlock s.block) =
      ⟨s.block.word 0 ^^^ s.block.word 1 ^^^ s.block.word 3, s.block.word 0 ^^^ s.block.word 1 ^^^ s.block.word 2,
        s.block.word 0 ^^^ s.block.word 2 ^^^ (s.block.word 1 <<< 17), (s.block.word 1 ^^^ s.block.word 3).rotateLeft 45⟩ := by
    refine rsx_ext ?_ ?_ ?_ ?_
    · rw [rsxUpdate_w0]
      exact (BitVec.xor_assoc _ _ _).trans (congrArg _ (BitVec.xor_comm _ _)) |>.symm
    · rw [rsxUpdate_w1]
      simp only [rsxOfBlock]
      ac_rfl
    · rw [rsxUpdate_w2]
      simp only [rsxOfBlock]
      rw [BitVec.xor_comm (s.block.word 2)]
      rfl
    · rw [rsxUpdate_w3, rotl64_eq_rotateLeft _ _ (by decide), BitVec.xor_comm]
      rfl
  have out : rsxOut (rsxOfBlock s.block) = (s.block.word 1 * 5).rotateLeft 7 * 9 := by
    rw [rsxOut, rotl64_eq_rotateLeft _ _ (by decide)]
    rfl
  rw [exec_nextU64, stepFn_rsx256 _ _ hv, stepRsx256, rsxStep, update, out]
  rfl

end Sys2Proof.Machine
end

section
/-! PROOFS. The loop of the jump unit (44_jump_unit.md R162) as the sum of the stepped states that the bits of a polynomial
select, and what linearity of the update gives of such a sum. -/

namespace Sys2Proof.Machine

/-- The exclusive or of the states `i` steps ahead of `r` over the `i < n` with `bit i`: the polynomial with these coefficients
in the update, applied to `r` (44_jump_unit.md R165). -/
def selectedSum (bit : Nat → Bool) (r : Rsx) : Nat → Rsx
  | 0 => rsxZero
  | n + 1 => if bit n then rsxXor (selectedSum bit r n) (rsxUpdate^[n] r) else selectedSum bit r n

theorem selectedSum_succ (bit : Nat → Bool) (r : Rsx) (n : Nat) :
    selectedSum bit r (n + 1) = rsxXor (selectedSum bit r n) (if bit n then rsxUpdate^[n] r else rsxZero) := by
  rw [selectedSum]
  split <;> simp

theorem selectedSum_congr {bit bit' : Nat → Bool} (r : Rsx) {n : Nat} (agree : ∀ i < n, bit i = bit' i) :
    selectedSum bit r n = selectedSum bit' r n := by
  induction n with
  | zero => rfl
  | succ n ih =>
    rw [selectedSum_succ, selectedSum_succ, agree n (Nat.lt_succ_self n), ih fun i hi => agree i (Nat.lt_succ_of_lt hi)]

/-! ## The loop -/

theorem foldl_eq_selectedSum (bit : Nat → Bool) (r : Rsx) (n : Nat) :
    (List.range n).foldl (fun acc i => if bit i then rsxXor acc (rsxUpdate^[i] r) else acc) rsxZero =
      selectedSum bit r n := by
  induction n with
  | zero => rfl
  | succ n ih => rw [List.range_succ, List.foldl_append, ih, List.foldl_cons, List.foldl_nil, selectedSum]

/-- After `c` iterations the unit holds the state `c` steps ahead and the sum over the bits below `c`. -/
theorem jumpLoop_acc (poly : List Word) (r : Rsx) (n c : Nat) :
    (jumpLoop poly n ⟨rsxUpdate^[c] r, selectedSum (polyBit poly) r c, c⟩).acc = selectedSum (polyBit poly) r (c + n) := by
  induction n generalizing c with
  | zero => rfl
  | succ n ih =>
    have iteration : jumpIteration poly ⟨rsxUpdate^[c] r, selectedSum (polyBit poly) r c, c⟩ =
        ⟨rsxUpdate^[c + 1] r, selectedSum (polyBit poly) r (c + 1), c + 1⟩ := by
      rw [Function.iterate_succ_apply']
      rfl
    rw [jumpLoop, iteration, ih, Nat.add_right_comm, Nat.add_assoc]

theorem jumpCore_eq_selectedSum (poly : List Word) (r : Rsx) :
    jumpCore poly r = selectedSum (polyBit poly) r 256 := by
  have h := jumpLoop_acc poly r 256 0
  rwa [Nat.zero_add] at h

/-- Bit `n` of a table (20_memory.md R58) is bit `n` of its words put together, word 0 lowest. -/
theorem polyBit_eq_getLsbD (p0 p1 p2 p3 : Word) {n : Nat} (hn : n < 256) :
    polyBit [p0, p1, p2, p3] n = (p3 ++ p2 ++ p1 ++ p0 : BitVec 256).getLsbD n := by
  obtain ⟨q, m, hm, rfl⟩ : ∃ q m, m < 64 ∧ n = 64 * q + m := ⟨n / 64, n % 64, Nat.mod_lt _ (by decide), by omega⟩
  have word : (64 * q + m) / 64 = q := by omega
  have bit : (64 * q + m) % 64 = m := by omega
  rw [polyBit, word, bit]
  have hq : q < 4 := by omega
  simp only [BitVec.getLsbD_append]
  interval_cases q
  · simp [hm]
  · simp [hm]
  · simp [hm, show ¬ 128 + m < 64 by omega, show ¬ 128 + m - 64 < 64 by omega, show 128 + m - 64 - 64 = m by omega]
  · simp [hm, show ¬ 192 + m < 64 by omega, show ¬ 192 + m - 64 < 64 by omega, show ¬ 192 + m - 64 - 64 < 64 by omega,
      show 192 + m - 64 - 64 - 64 = m by omega]

/-- Settles O38: the accumulator after 256 iterations, the bits of the table read as bits of one number. -/
theorem jumpCoreSumsTheSelectedSteps : Obligations.JumpCoreSumsTheSelectedSteps := by
  intro p0 p1 p2 p3 r
  rw [jumpCore_eq_selectedSum, selectedSum_congr r fun i hi => polyBit_eq_getLsbD p0 p1 p2 p3 hi]
  exact (foldl_eq_selectedSum _ r 256).symm

/-! ## Sums and the update -/

@[simp] theorem iterate_rsxUpdate_zero (n : Nat) : rsxUpdate^[n] rsxZero = rsxZero :=
  Function.iterate_fixed rsxUpdate_zero n

theorem iterate_rsxUpdate_rsxXor (n : Nat) (x y : Rsx) :
    rsxUpdate^[n] (rsxXor x y) = rsxXor (rsxUpdate^[n] x) (rsxUpdate^[n] y) := by
  induction n generalizing x y with
  | zero => rfl
  | succ n ih => simp only [Function.iterate_succ_apply, rsxUpdate_rsxXor, ih]

theorem selectedSum_rsxUpdate (bit : Nat → Bool) (r : Rsx) (n : Nat) :
    selectedSum bit (rsxUpdate r) n = rsxUpdate (selectedSum bit r n) := by
  induction n with
  | zero => exact rsxUpdate_zero.symm
  | succ n ih =>
    rw [selectedSum_succ, selectedSum_succ, rsxUpdate_rsxXor, ih, ← Function.iterate_succ_apply,
      Function.iterate_succ_apply']
    split
    · rfl
    · rw [rsxUpdate_zero]

theorem selectedSum_iterate_rsxUpdate (bit : Nat → Bool) (r : Rsx) (n m : Nat) :
    selectedSum bit (rsxUpdate^[m] r) n = rsxUpdate^[m] (selectedSum bit r n) := by
  induction m with
  | zero => rfl
  | succ m ih => rw [Function.iterate_succ_apply', Function.iterate_succ_apply', selectedSum_rsxUpdate, ih]

theorem jumpCore_iterate_rsxUpdate (poly : List Word) (r : Rsx) (m : Nat) :
    jumpCore poly (rsxUpdate^[m] r) = rsxUpdate^[m] (jumpCore poly r) := by
  rw [jumpCore_eq_selectedSum, jumpCore_eq_selectedSum, selectedSum_iterate_rsxUpdate]

/-! ## Runs on variant 2 -/

@[simp] theorem rsxOfBlock_blockOfRsx (r : Rsx) : rsxOfBlock (blockOfRsx r) = r := rfl

theorem nextBlock_rsx256 {b : Build} (hv : b.variant = .rsx256) (k : Block) :
    nextBlock b k = blockOfRsx (rsxUpdate (rsxOfBlock k)) := by
  rw [nextBlock, stepFn_rsx256 b k hv]
  rfl

theorem iterate_nextBlock_blockOfRsx {b : Build} (hv : b.variant = .rsx256) (r : Rsx) (n : Nat) :
    (nextBlock b)^[n] (blockOfRsx r) = blockOfRsx (rsxUpdate^[n] r) := by
  induction n with
  | zero => rfl
  | succ n ih =>
    rw [Function.iterate_succ_apply', Function.iterate_succ_apply', ih, nextBlock_rsx256 hv, rsxOfBlock_blockOfRsx]

theorem rsxOfBlock_iterate_nextBlock {b : Build} (hv : b.variant = .rsx256) (k : Block) (n : Nat) :
    rsxOfBlock ((nextBlock b)^[n] k) = rsxUpdate^[n] (rsxOfBlock k) := by
  cases n with
  | zero => rfl
  | succ n =>
    rw [Function.iterate_succ_apply, nextBlock_rsx256 hv, iterate_nextBlock_blockOfRsx hv, rsxOfBlock_blockOfRsx,
      Function.iterate_succ_apply]

/-- A jump by any table commutes with stepping: both orders leave the stepped sum (44_jump_unit.md R167 a). -/
theorem jump_commutes_with_nextU64 {i : Instr} {poly : List Word} (jumps : ∀ s, exec i s = jumpBy poly s) {s : State}
    (hv : s.build.variant = .rsx256) (n : Nat) :
    ∃ t₁ t₂ : State, execAll (i :: List.replicate n .nextU64) s = .next t₁ ∧
      execAll (List.replicate n .nextU64 ++ [i]) s = .next t₂ ∧ t₁.block = t₂.block := by
  obtain ⟨t₁, run₁, -, block₁⟩ :=
    execAll_replicate_nextU64 n (complete (blockOfRsx (jumpCore poly (rsxOfBlock s.block))) 0 s)
  obtain ⟨u, run₂, build₂, block₂⟩ := execAll_replicate_nextU64 n s
  have hu : u.build.variant = .rsx256 := build₂ ▸ hv
  refine ⟨t₁, _, (execAll_cons ((jumps s).trans (jumpBy_of_rsx256 poly hv)) _).trans run₁,
    (execAll_append run₂ _).trans (execAll_cons ((jumps u).trans (jumpBy_of_rsx256 poly hu)) []), ?_⟩
  rw [block₁, complete_build, complete_block, iterate_nextBlock_blockOfRsx hv, complete_block, block₂,
    rsxOfBlock_iterate_nextBlock hv, jumpCore_iterate_rsxUpdate]

/-- Settles O40: the same for either table. -/
theorem jumpCommutesWithStepping : Obligations.JumpCommutesWithStepping := by
  intro s n hv
  obtain ⟨t₁, t₂, run₁, run₂, same⟩ := jump_commutes_with_nextU64 exec_jump hv n
  obtain ⟨u₁, u₂, long_run₁, long_run₂, long_same⟩ := jump_commutes_with_nextU64 exec_longJump hv n
  exact ⟨t₁, t₂, u₁, u₂, run₁, run₂, same, long_run₁, long_run₂, long_same⟩

end Sys2Proof.Machine
end

section
/-! PROOFS. The characteristic polynomial of the update of variant 2: the state 256 steps ahead is a fixed sum of the states
before. Both sides are linear in the state, so 64 states whose steps span the rest decide; on them the sum is evaluated. -/

namespace Sys2Proof.Machine

theorem selectedSum_rsxXor (bit : Nat → Bool) (x y : Rsx) (n : Nat) :
    selectedSum bit (rsxXor x y) n = rsxXor (selectedSum bit x n) (selectedSum bit y n) := by
  induction n with
  | zero => exact (rsxXor_zero rsxZero).symm
  | succ n ih =>
    rw [selectedSum, selectedSum, selectedSum]
    split
    · rw [ih, iterate_rsxUpdate_rsxXor, rsxXor_rsxXor_rsxXor_comm]
    · exact ih

/-- The characteristic polynomial without its leading term `X ^ 256`; bit `i` is the coefficient of `X ^ i`. -/
def charTail : Nat := 0x0003c03c3f3ecb1904b4edcf26259f850280002bcefd1a5e9d116f2bb0f0f001

/-- The characteristic polynomial annihilates `r`. -/
structure Annihilated (r : Rsx) : Prop where
  steps_eq_sum : rsxUpdate^[256] r = selectedSum charTail.testBit r 256

theorem Annihilated.xor {x y : Rsx} (hx : Annihilated x) (hy : Annihilated y) : Annihilated (rsxXor x y) :=
  ⟨by rw [iterate_rsxUpdate_rsxXor, selectedSum_rsxXor, hx.steps_eq_sum, hy.steps_eq_sum]⟩

theorem Annihilated.step {x : Rsx} (hx : Annihilated x) : Annihilated (rsxUpdate x) :=
  ⟨by rw [selectedSum_rsxUpdate, ← hx.steps_eq_sum, ← Function.iterate_succ_apply, Function.iterate_succ_apply']⟩

/-! ## The evaluation -/

/-- Horner's rule: `n` times a step of the state and the next coefficient, from bit `n - 1` down, times `r`. -/
def horner (bit : Nat → Bool) (r : Rsx) : Nat → Rsx → Rsx
  | 0, acc => acc
  | n + 1, acc => horner bit r n (rsxXor (rsxUpdate acc) (if bit n then r else rsxZero))

theorem horner_eq_selectedSum (bit : Nat → Bool) (r : Rsx) (n : Nat) (acc : Rsx) :
    horner bit r n acc = rsxXor (rsxUpdate^[n] acc) (selectedSum bit r n) := by
  induction n generalizing acc with
  | zero => exact (rsxXor_zero acc).symm
  | succ n ih =>
    rw [horner, ih, iterate_rsxUpdate_rsxXor, ← Function.iterate_succ_apply, rsxXor_assoc, selectedSum_succ,
      rsxXor_comm (selectedSum bit r n)]
    split
    · rfl
    · rw [iterate_rsxUpdate_zero]

/-- The four words of a state as numbers, in which the kernel evaluates the update. -/
structure RsxNat where
  w0 : Nat
  w1 : Nat
  w2 : Nat
  w3 : Nat
deriving DecidableEq

/-- The words of a state as numbers. -/
def Rsx.toNats (r : Rsx) : RsxNat := ⟨r.w0.toNat, r.w1.toNat, r.w2.toNat, r.w3.toNat⟩

theorem toNats_injective : Function.Injective Rsx.toNats := by
  intro x y h
  obtain ⟨h0, h1, h2, h3⟩ := RsxNat.mk.inj h
  exact rsx_ext (BitVec.eq_of_toNat_eq h0) (BitVec.eq_of_toNat_eq h1) (BitVec.eq_of_toNat_eq h2)
    (BitVec.eq_of_toNat_eq h3)

/-- `rsxUpdate` on numbers. -/
def RsxNat.update (r : RsxNat) : RsxNat where
  w0 := r.w0 ^^^ (r.w3 ^^^ r.w1)
  w1 := r.w1 ^^^ (r.w2 ^^^ r.w0)
  w2 := (r.w2 ^^^ r.w0) ^^^ (r.w1 * 2 ^ 17 % 2 ^ 64)
  w3 := ((r.w3 ^^^ r.w1) * 2 ^ 45 % 2 ^ 64) ||| (r.w3 ^^^ r.w1) / 2 ^ 19

theorem toNat_rotl64 (x : Word) {k : Nat} (hk : k ≠ 0) :
    (rotl64 x k).toNat = (x.toNat * 2 ^ k % 2 ^ 64) ||| x.toNat / 2 ^ (64 - k) := by
  rw [rotl64, if_neg hk, BitVec.toNat_or, BitVec.toNat_shiftLeft, BitVec.toNat_ushiftRight, Nat.shiftLeft_eq,
    Nat.shiftRight_eq_div_pow]

theorem toNats_rsxUpdate (r : Rsx) : (rsxUpdate r).toNats = r.toNats.update := by
  simp only [Rsx.toNats, RsxNat.update, rsxUpdate_w0, rsxUpdate_w1, rsxUpdate_w2, rsxUpdate_w3, rsxShift, rsxRot,
    BitVec.toNat_xor, BitVec.toNat_shiftLeft, Nat.shiftLeft_eq, toNat_rotl64 _ (show 45 ≠ 0 by decide)]

/-- The exclusive or with `y` or, where the factor is 0, with nothing. -/
def RsxNat.xorTimes (x : RsxNat) (factor : Nat) (y : RsxNat) : RsxNat where
  w0 := x.w0 ^^^ (factor * y.w0)
  w1 := x.w1 ^^^ (factor * y.w1)
  w2 := x.w2 ^^^ (factor * y.w2)
  w3 := x.w3 ^^^ (factor * y.w3)

theorem toNats_rsxXor_bit (x y : Rsx) (poly i : Nat) :
    (rsxXor x (if poly.testBit i then y else rsxZero)).toNats = x.toNats.xorTimes (poly / 2 ^ i % 2) y.toNats := by
  rw [Nat.testBit_eq_decide_div_mod_eq]
  obtain bit | bit := Nat.mod_two_eq_zero_or_one (poly / 2 ^ i)
  · simp [bit, Rsx.toNats, RsxNat.xorTimes]
  · simp [bit, Rsx.toNats, RsxNat.xorTimes, rsxXor]

/-- `horner` on numbers, the coefficients the bits of `poly`. -/
def RsxNat.horner (poly : Nat) (r : RsxNat) : Nat → RsxNat → RsxNat
  | 0, acc => acc
  | n + 1, acc => horner poly r n (acc.update.xorTimes (poly / 2 ^ n % 2) r)

theorem toNats_horner (poly : Nat) (r : Rsx) (n : Nat) (acc : Rsx) :
    (horner poly.testBit r n acc).toNats = r.toNats.horner poly n acc.toNats := by
  induction n generalizing acc with
  | zero => rfl
  | succ n ih => rw [horner, ih, toNats_rsxXor_bit, toNats_rsxUpdate, RsxNat.horner]

/-- The evaluation: the 64 states with one bit in word 2, the leading coefficient of the polynomial being 1. -/
theorem horner_charTail_unit : ∀ i : Fin 64,
    RsxNat.horner charTail ⟨0, 0, 2 ^ i.val, 0⟩ 256 ⟨0, 0, 2 ^ i.val, 0⟩ = ⟨0, 0, 0, 0⟩ := by
  decide +kernel

theorem annihilated_unit (i : Fin 64) : Annihilated ⟨0, 0, BitVec.twoPow 64 i, 0⟩ := by
  have unit : (⟨0, 0, BitVec.twoPow 64 i, 0⟩ : Rsx).toNats = ⟨0, 0, 2 ^ i.val, 0⟩ := by
    simp [Rsx.toNats, BitVec.toNat_twoPow, Nat.mod_eq_of_lt (Nat.pow_lt_pow_right Nat.one_lt_two i.isLt)]
  have vanishes : horner charTail.testBit ⟨0, 0, BitVec.twoPow 64 i, 0⟩ 256 ⟨0, 0, BitVec.twoPow 64 i, 0⟩ = rsxZero := by
    refine toNats_injective ?_
    rw [toNats_horner, unit, horner_charTail_unit]
    rfl
  rw [horner_eq_selectedSum] at vanishes
  exact ⟨rsxXor_eq_zero_iff.mp vanishes⟩

/-! ## From the evaluated states to every state -/

/-- The low `n + 1` bits of a word are its low `n` bits and bit `n`. -/
theorem setWidth_succ_eq_xor (x : Word) (n : Nat) :
    (x.setWidth (n + 1)).setWidth 64 =
      (x.setWidth n).setWidth 64 ^^^ (if x.getLsbD n then BitVec.twoPow 64 n else 0 : Word) := by
  refine BitVec.eq_of_getLsbD_eq fun i hi => ?_
  split <;> simp <;> grind

@[simp] theorem zero_rotl64 (k : Nat) : rotl64 0#64 k = 0#64 := by
  simp [rotl64]

/-- What the exclusive or and the steps keep holds of every state if it holds of the 64 states with one bit in word 2: these give
every word 2 bit by bit, and the steps of those give word 1, then word 0 beside the rotated word 3, then each alone. -/
theorem rsx_of_units {p : Rsx → Prop} (xor : ∀ x y, p x → p y → p (rsxXor x y)) (step : ∀ x, p x → p (rsxUpdate x))
    (unit : ∀ i : Fin 64, p ⟨0, 0, BitVec.twoPow 64 i, 0⟩) (r : Rsx) : p r := by
  have cancel {x y : Rsx} (hxy : p (rsxXor x y)) (hy : p y) : p x := by
    have h := xor _ _ hxy hy
    rwa [rsxXor_assoc, rsxXor_self, rsxXor_zero] at h
  have zero : p rsxZero := by
    have h := xor _ _ (unit 0) (unit 0)
    rwa [rsxXor_self] at h
  have word2 (x : Word) : p ⟨0, 0, x, 0⟩ := by
    have low_bits (n : Nat) (hn : n ≤ 64) : p ⟨0, 0, (x.setWidth n).setWidth 64, 0⟩ := by
      induction n with
      | zero => simpa [BitVec.of_length_zero (x := x.setWidth 0), rsxZero] using zero
      | succ n ih =>
        have next_bit : p ⟨0, 0, if x.getLsbD n then BitVec.twoPow 64 n else 0, 0⟩ := by
          split
          · exact unit ⟨n, hn⟩
          · exact zero
        have h := xor _ _ (ih (Nat.le_of_succ_le hn)) next_bit
        rw [setWidth_succ_eq_xor]
        simpa [rsxXor] using h
    simpa using low_bits 64 le_rfl
  have word1 (x : Word) : p ⟨0, x, 0, 0⟩ := by
    refine cancel (y := ⟨0, 0, x, 0⟩) ?_ (word2 x)
    simpa [rsxXor, rsxUpdate] using step _ (word2 x)
  have word03 (x : Word) : p ⟨x, 0, 0, rotl64 x rsxRot⟩ := by
    refine cancel (y := ⟨0, 0, x <<< rsxShift, 0⟩) (cancel (y := ⟨0, x, 0, 0⟩) ?_ (word1 x)) (word2 _)
    simpa [rsxXor, rsxUpdate] using step _ (word1 x)
  have word0 (x : Word) : p ⟨x, 0, 0, 0⟩ := by
    refine cancel (y := ⟨rotl64 x rsxRot, 0, 0, rotl64 (rotl64 x rsxRot) rsxRot⟩)
      (cancel (y := ⟨0, x, 0, 0⟩) (cancel (y := ⟨0, 0, x, 0⟩) ?_ (word2 x)) (word1 x)) (word03 _)
    simpa [rsxXor, rsxUpdate] using step _ (word03 x)
  have word3 (x : Word) : p ⟨0, 0, 0, x⟩ := by
    have h := xor _ _ (word03 (rotr64 x rsxRot)) (word0 (rotr64 x rsxRot))
    rw [rotl64_rotr64 x (by decide)] at h
    simpa [rsxXor] using h
  have h := xor _ _ (xor _ _ (word0 r.w0) (word1 r.w1)) (xor _ _ (word2 r.w2) (word3 r.w3))
  simpa [rsxXor] using h

/-- The Cayley-Hamilton equation of the update. -/
theorem iterate_rsxUpdate_256 (r : Rsx) : rsxUpdate^[256] r = selectedSum charTail.testBit r 256 :=
  (rsx_of_units (fun _ _ hx hy => hx.xor hy) (fun _ hx => hx.step) annihilated_unit r).steps_eq_sum

end Sys2Proof.Machine
end

section
/-! PROOFS. Jump equivalence (44_jump_unit.md R165): polynomials in the update multiply modulo its characteristic polynomial, so
`X` squared 128 times modulo it acts as 2^128 steps, and that residue is the jump table. -/

namespace Sys2Proof.Machine

/-! ## Multiplication modulo the characteristic polynomial -/

/-- A polynomial of degree below 256, bit `i` of `p` the coefficient of `X ^ i`, applied to a state. -/
def applyPoly (p : Nat) (r : Rsx) : Rsx := selectedSum p.testBit r 256

/-- By the number of terms: the constant term, and one step of the rest of the polynomial divided by `X`. -/
theorem selectedSum_succ_low (bit : Nat → Bool) (r : Rsx) (n : Nat) :
    selectedSum bit r (n + 1) =
      rsxXor (if bit 0 then r else rsxZero) (rsxUpdate (selectedSum (fun i => bit (i + 1)) r n)) := by
  induction n with
  | zero =>
    rw [selectedSum_succ]
    exact (zero_rsxXor _).trans ((congrArg _ rsxUpdate_zero).trans (rsxXor_zero _)).symm
  | succ n ih =>
    rw [selectedSum_succ bit, ih, selectedSum_succ fun i => bit (i + 1), rsxUpdate_rsxXor, rsxXor_assoc,
      Function.iterate_succ_apply', apply_ite rsxUpdate, rsxUpdate_zero]

theorem selectedSum_xor (bit bit' : Nat → Bool) (r : Rsx) (n : Nat) :
    selectedSum (fun i => bit i ^^ bit' i) r n = rsxXor (selectedSum bit r n) (selectedSum bit' r n) := by
  induction n with
  | zero => exact (rsxXor_zero rsxZero).symm
  | succ n ih =>
    rw [selectedSum_succ, selectedSum_succ, selectedSum_succ, ih, rsxXor_rsxXor_rsxXor_comm]
    cases bit n <;> cases bit' n <;> simp

theorem applyPoly_xor (p q : Nat) (r : Rsx) : applyPoly (p ^^^ q) r = rsxXor (applyPoly p r) (applyPoly q r) := by
  rw [applyPoly, applyPoly, applyPoly, ← selectedSum_xor]
  exact selectedSum_congr r fun i _ => Nat.testBit_xor p q i

theorem selectedSum_false (r : Rsx) (n : Nat) : selectedSum (fun _ => false) r n = rsxZero := by
  induction n with
  | zero => rfl
  | succ n ih => exact ih

theorem applyPoly_zero (r : Rsx) : applyPoly 0 r = rsxZero := by
  rw [applyPoly, selectedSum_congr r fun i _ => Nat.zero_testBit i, selectedSum_false]

theorem applyPoly_one (r : Rsx) : applyPoly 1 r = r := by
  have no_more (i : Nat) : Nat.testBit 1 (i + 1) = false := by rw [Nat.testBit_succ, Nat.zero_testBit]
  rw [applyPoly, selectedSum_succ_low, selectedSum_congr r fun i _ => no_more i, selectedSum_false, rsxUpdate_zero,
    rsxXor_zero]
  rfl

/-- `p * X` modulo the characteristic polynomial: the term of degree 256, if there is one, is replaced. -/
def timesX (p : Nat) : Nat := (2 * p % 2 ^ 256) ^^^ (2 * p / 2 ^ 256 * charTail)

theorem leading_le_one {p : Nat} (hp : p < 2 ^ 256) : 2 * p / 2 ^ 256 ≤ 1 := by omega

theorem timesX_lt {p : Nat} (hp : p < 2 ^ 256) : timesX p < 2 ^ 256 := by
  refine Nat.xor_lt_two_pow (Nat.mod_lt _ (by decide)) ?_
  calc 2 * p / 2 ^ 256 * charTail ≤ 1 * charTail := Nat.mul_le_mul_right _ (leading_le_one hp)
    _ < 2 ^ 256 := by decide

theorem applyPoly_timesX {p : Nat} (hp : p < 2 ^ 256) (r : Rsx) : applyPoly (timesX p) r = rsxUpdate (applyPoly p r) := by
  have shifted : rsxUpdate (applyPoly p r) = selectedSum (2 * p).testBit r (256 + 1) := by
    rw [selectedSum_succ_low, applyPoly]
    simp [Nat.testBit_succ]
  have low : selectedSum (2 * p).testBit r 256 = applyPoly (2 * p % 2 ^ 256) r :=
    selectedSum_congr r fun i hi => by rw [Nat.testBit_mod_two_pow, decide_eq_true hi, Bool.true_and]
  rw [timesX, applyPoly_xor, shifted, selectedSum_succ, low, Nat.testBit_eq_decide_div_mod_eq, iterate_rsxUpdate_256]
  obtain no_leading | leading := Nat.le_one_iff_eq_zero_or_eq_one.mp (leading_le_one hp)
  · rw [no_leading, Nat.zero_mul, applyPoly_zero, if_neg (by decide)]
  · rw [leading, Nat.one_mul, if_pos (by decide), applyPoly, applyPoly]

/-- The low `n` terms of `p` times `q` modulo the characteristic polynomial, by Horner's rule. -/
def polyMul : Nat → Nat → Nat → Nat
  | 0, _, _ => 0
  | n + 1, p, q => (p % 2 * q) ^^^ timesX (polyMul n (p / 2) q)

theorem polyMul_lt (n p : Nat) {q : Nat} (hq : q < 2 ^ 256) : polyMul n p q < 2 ^ 256 := by
  induction n generalizing p with
  | zero => exact Nat.two_pow_pos 256
  | succ n ih =>
    refine Nat.xor_lt_two_pow ?_ (timesX_lt (ih _))
    calc p % 2 * q ≤ 1 * q := Nat.mul_le_mul_right _ (by omega)
      _ < 2 ^ 256 := by rwa [Nat.one_mul]

/-- By induction on the number of terms of `p`, the lowest first. -/
theorem applyPoly_polyMul (n p : Nat) {q : Nat} (hq : q < 2 ^ 256) (r : Rsx) :
    applyPoly (polyMul n p q) r = selectedSum p.testBit (applyPoly q r) n := by
  induction n generalizing p with
  | zero => exact applyPoly_zero r
  | succ n ih =>
    have rest : selectedSum (fun i => p.testBit (i + 1)) (applyPoly q r) n = applyPoly (polyMul n (p / 2) q) r := by
      rw [ih]
      exact selectedSum_congr _ fun i _ => Nat.testBit_succ p i
    rw [polyMul, applyPoly_xor, applyPoly_timesX (polyMul_lt n _ hq), selectedSum_succ_low, rest, Nat.testBit_zero]
    obtain even | odd := Nat.mod_two_eq_zero_or_one p
    · simp [even, applyPoly_zero]
    · simp [odd]

/-! ## Repeated squaring -/

/-- `p` squared `k` times modulo the characteristic polynomial. -/
def squareTimes : Nat → Nat → Nat
  | 0, p => p
  | k + 1, p => squareTimes k (polyMul 256 p p)

/-- Squaring doubles the number of applications. -/
theorem applyPoly_squareTimes (k : Nat) {p : Nat} (hp : p < 2 ^ 256) :
    applyPoly (squareTimes k p) = (applyPoly p)^[2 ^ k] := by
  induction k generalizing p with
  | zero => rfl
  | succ k ih =>
    have square : applyPoly (polyMul 256 p p) = (applyPoly p)^[2] := funext fun r => applyPoly_polyMul 256 p hp r
    rw [squareTimes, ih (polyMul_lt 256 p hp), square, ← Function.iterate_mul, Nat.pow_succ']

theorem applyPoly_X : applyPoly 2 = rsxUpdate :=
  funext fun r => (applyPoly_timesX (p := 1) (by decide) r).trans (congrArg rsxUpdate (applyPoly_one r))

/-! ## The jump tables -/

/-- The words of a table put together, word 0 lowest (20_memory.md R58). -/
def tableNat (poly : List Word) : Nat := poly.foldr (fun w acc => w.toNat + 2 ^ 64 * acc) 0

theorem toNat_append_word {n : Nat} (x : BitVec n) (w : Word) : (x ++ w).toNat = w.toNat + 2 ^ 64 * x.toNat := by
  rw [BitVec.toNat_append, Nat.shiftLeft_eq, Nat.mul_comm, ← Nat.two_pow_add_eq_or_of_lt w.isLt, Nat.add_comm]

theorem jumpCore_eq_applyPoly (p0 p1 p2 p3 : Word) (r : Rsx) :
    jumpCore [p0, p1, p2, p3] r = applyPoly (tableNat [p0, p1, p2, p3]) r := by
  have table : tableNat [p0, p1, p2, p3] = (p3 ++ p2 ++ p1 ++ p0 : BitVec 256).toNat := by
    rw [toNat_append_word, toNat_append_word, toNat_append_word]
    rfl
  rw [jumpCore_eq_selectedSum, applyPoly, table]
  exact selectedSum_congr r fun i hi => polyBit_eq_getLsbD p0 p1 p2 p3 hi

theorem squareTimes_128_X : squareTimes 128 2 = tableNat jumpPoly := by decide +kernel

theorem squareTimes_64_jumpPoly : squareTimes 64 (tableNat jumpPoly) = tableNat longJumpPoly := by decide +kernel

theorem applyPoly_jumpPoly : applyPoly (tableNat jumpPoly) = rsxUpdate^[2 ^ 128] := by
  rw [← squareTimes_128_X, applyPoly_squareTimes 128 (by decide), applyPoly_X]

theorem applyPoly_longJumpPoly : applyPoly (tableNat longJumpPoly) = rsxUpdate^[2 ^ 192] := by
  have exponent : 2 ^ 128 * 2 ^ 64 = 2 ^ 192 := (Nat.pow_add 2 128 64).symm
  rw [← squareTimes_64_jumpPoly, applyPoly_squareTimes 64 (by decide), applyPoly_jumpPoly, ← Function.iterate_mul,
    exponent]

theorem exec_jump_of_rsx256 {s : State} (hv : s.build.variant = .rsx256) {n : Nat} (hn : n = 2 ^ 128) :
    exec .jump s = .next (complete (blockOfRsx (rsxUpdate^[n] (rsxOfBlock s.block))) 0 s) := by
  rw [exec_jump, jumpBy_of_rsx256 _ hv, jumpPoly, jumpCore_eq_applyPoly, ← jumpPoly, applyPoly_jumpPoly, hn]

theorem exec_longJump_of_rsx256 {s : State} (hv : s.build.variant = .rsx256) {m : Nat} (hm : m = 2 ^ 192) :
    exec .longJump s = .next (complete (blockOfRsx (rsxUpdate^[m] (rsxOfBlock s.block))) 0 s) := by
  rw [exec_longJump, jumpBy_of_rsx256 _ hv, longJumpPoly, jumpCore_eq_applyPoly, ← longJumpPoly, applyPoly_longJumpPoly, hm]

/-- Settles O39: JUMP_CORE applies the table, and the tables are `X` squared 128 and 192 times. -/
theorem jumpEqualsTwoPow128Steps : Obligations.JumpEqualsTwoPow128Steps :=
  fun _ _ _ hv hn hm => ⟨exec_jump_of_rsx256 hv hn, exec_longJump_of_rsx256 hv hm⟩

end Sys2Proof.Machine
end

section
/-! PROOFS. What follows of jump equivalence on variant 2: a non-zero state stays non-zero under every command but LOAD_STATE
(43_rsx256.md R155, 44_jump_unit.md R167 c), and STREAM is the seeded state moved ahead (60_exceptions.md R236). -/

namespace Sys2Proof.Machine

/-! ## Blocks of variant 2 -/

theorem blockOfRsx_rsxOfBlock {b : Build} {k : Block} (hv : b.variant = .rsx256) (fits : blockFits b k) :
    blockOfRsx (rsxOfBlock k) = k := by
  obtain ⟨words, cursors⟩ := k
  obtain ⟨words_length, cursors_length⟩ := fits
  simp only [nw, nc, hv] at words_length cursors_length
  obtain ⟨w0, w1, w2, w3, rfl⟩ := List.length_eq_four.mp words_length
  obtain rfl := List.length_eq_zero_iff.mp cursors_length
  rfl

theorem notAllZero_blockOfRsx {r : Rsx} : notAllZero (blockOfRsx r) ↔ r ≠ rsxZero := by
  obtain ⟨w0, w1, w2, w3⟩ := r
  simp [notAllZero, blockOfRsx, imp_iff_not_or]

/-! ## A non-zero state stays non-zero -/

theorem iterate_rsxUpdate_ne_zero {r : Rsx} (nonzero : r ≠ rsxZero) (n : Nat) : rsxUpdate^[n] r ≠ rsxZero := by
  intro steps_zero
  refine nonzero (rsxUpdate_injective.iterate n ?_)
  rw [steps_zero, iterate_rsxUpdate_zero]

/-- One case per command: SEED by the fill, NEXT and the jumps by steps of the update, the others leave the block. -/
theorem exec_keeps_notAllZero {i : Instr} {s t : State} (hv : s.build.variant = .rsx256)
    (fits : blockFits s.build s.block) (nonzero : notAllZero s.block) (not_load : ∀ idx arg, i ≠ .loadState idx arg)
    (ht : exec i s = .next t) : notAllZero t.block := by
  have steps_nonzero (n : Nat) : notAllZero (blockOfRsx (rsxUpdate^[n] (rsxOfBlock s.block))) := by
    rw [← blockOfRsx_rsxOfBlock hv fits, notAllZero_blockOfRsx] at nonzero
    exact notAllZero_blockOfRsx.mpr (iterate_rsxUpdate_ne_zero nonzero n)
  cases i with
  | seed arg =>
    rw [exec_seed, seedFn_rsx256 _ _ hv] at ht
    cases ht
    exact smFill_has_nonzero arg (by decide)
  | nextU64 =>
    rw [exec_nextU64, stepFn_rsx256 _ _ hv] at ht
    cases ht
    exact steps_nonzero 1
  | nextI63 =>
    rw [exec_nextI63, stepFn_rsx256 _ _ hv] at ht
    cases ht
    exact steps_nonzero 1
  | nextU32 =>
    rw [exec_nextU32_of_ne_pcg32 (by simp [hv])] at ht
    cases ht
    exact nonzero
  | jump =>
    obtain ⟨n, hn⟩ : ∃ n, n = 2 ^ 128 := ⟨_, rfl⟩
    rw [exec_jump_of_rsx256 hv hn] at ht
    cases ht
    exact steps_nonzero n
  | longJump =>
    obtain ⟨m, hm⟩ : ∃ m, m = 2 ^ 192 := ⟨_, rfl⟩
    rw [exec_longJump_of_rsx256 hv hm] at ht
    cases ht
    exact steps_nonzero m
  | loadState idx arg => exact absurd rfl (not_load idx arg)
  | readState idx =>
    rw [exec_readState_block ht]
    exact nonzero

/-- Settles O41: a word that decodes runs its command, any other leaves the block. -/
theorem nonZeroRsxStateStaysNonZero : Obligations.NonZeroRsxStateStaysNonZero := by
  rintro s t w rest hv ⟨-, fits, -⟩ nonzero hinbox not_load ht
  rw [step_of_command hinbox] at ht
  match decoded : decode w with
  | .ok i =>
    rw [runCommand_of_ok decoded] at ht
    exact exec_keeps_notAllZero (s := { s with inbox := rest }) hv fits nonzero
      (fun idx arg is_load => not_load idx arg (is_load ▸ decoded)) ht
  | .error e =>
    rw [runCommand_of_error decoded] at ht
    cases ht
    exact nonzero

/-! ## STREAM -/

/-- `k` jumps are `k * 2 ^ 128` steps; each answers OK 0, as the state before them did. -/
theorem execAll_replicate_jump {n : Nat} (hn : n = 2 ^ 128) (k : Nat) {s : State} {r : Rsx}
    (hv : s.build.variant = .rsx256) (rsp : s.rsp = okResponse 0) (block : s.block = blockOfRsx r) :
    ∃ t, execAll (List.replicate k .jump) s = .next t ∧ t.rsp = okResponse 0 ∧
      t.block = blockOfRsx (rsxUpdate^[k * n] r) := by
  induction k generalizing s r with
  | zero => exact ⟨s, rfl, rsp, by rw [block, Nat.zero_mul, Function.iterate_zero_apply]⟩
  | succ k ih =>
    have jumped := exec_jump_of_rsx256 hv hn
    rw [block, rsxOfBlock_blockOfRsx] at jumped
    obtain ⟨t, ht, t_rsp, t_block⟩ := ih (s := complete (blockOfRsx (rsxUpdate^[n] r)) 0 s) hv rfl rfl
    refine ⟨t, (execAll_cons jumped _).trans ht, t_rsp, ?_⟩
    rw [t_block, ← Function.iterate_add_apply, Nat.succ_mul]

/-- Settles O58: SEED leaves a block of variant 2, from which the jumps start. -/
theorem streamIsTheSeededStateJumpedAhead : Obligations.StreamIsTheSeededStateJumpedAhead := by
  intro s seed k n is hv hn expands
  rw [Pseudo.expand, if_pos ((hasJump_iff _).mpr hv)] at expands
  cases expands
  have block := (blockOfRsx_rsxOfBlock hv (seedFn_fits s.build seed)).symm
  obtain ⟨t, ht, rsp, t_block⟩ :=
    execAll_replicate_jump hn k (s := complete (seedFn s.build seed) 0 s) hv rfl block
  exact ⟨t, (execAll_cons (exec_seed seed s) _).trans ht, rsp, t_block⟩

end Sys2Proof.Machine
end

section
/-! PROOFS. Variants 3 and 4 (45_pcg.md): the 32-bit output bit by bit, the seeds, and the 128-bit step with XSL-RR. -/

namespace Sys2Proof.Machine

/-! ## Variant 3 -/

/-- The top bits of a word as the count of a rotate. -/
theorem toNat_top_bits (x : Word) {k : Nat} (hk : k ≤ 64) : (x.extractLsb' k (64 - k)).toNat = x.toNat / 2 ^ k := by
  have fits : x.toNat / 2 ^ k < 2 ^ (64 - k) := by
    refine Nat.div_lt_of_lt_mul ?_
    rw [← Nat.pow_add, Nat.add_sub_cancel' hk]
    exact x.isLt
  rw [BitVec.extractLsb'_toNat, Nat.shiftRight_eq_div_pow, Nat.mod_eq_of_lt fits]

theorem trunc32_getLsbD (x : Word) {i : Nat} (hi : i < 32) : (trunc32 x).getLsbD i = x.getLsbD i := by
  rw [trunc32, BitVec.getLsbD_setWidth, decide_eq_true hi, Bool.true_and]

/-- Settles O42: the rotate moves bit `(i + r) mod 32` of the shifted and truncated word to bit `i`. -/
theorem pcg32StepPermutesTheOldState : Obligations.Pcg32StepPermutesTheOldState := by
  refine fun p => ⟨rfl, fun i hi => ?_⟩
  have count : (p.extractLsb' 59 5).toNat = p.toNat / 2 ^ 59 := toNat_top_bits p (k := 59) (by decide)
  have count_lt : p.toNat / 2 ^ 59 < 32 := count ▸ (p.extractLsb' 59 5).isLt
  rw [step32, pcg32Out, count, rotr32_getLsbD _ count_lt hi, trunc32_getLsbD _ (Nat.mod_lt _ (by decide)),
    BitVec.getLsbD_ushiftRight, BitVec.xor_comm]

/-- Settles O45: one case per discard count. -/
theorem seedOnPcg32DiscardsOneTransition : Obligations.SeedOnPcg32DiscardsOneTransition := by
  intro arg s hv
  rw [exec_seed, seedFn_pcg32 s.build arg hv, seedPcg32]
  refine ⟨fun one => ?_, fun zero => ?_⟩
  · rw [one]
    rfl
  · rw [zero]
    rfl

/-! ## Variant 4 -/

theorem rotr64_eq_rotateRight (x : Word) {k : Nat} (hk : k < 64) : rotr64 x k = x.rotateRight k := by
  refine BitVec.eq_of_getLsbD_eq fun i hi => ?_
  rw [rotr64_getLsbD x hk hi, getLsbD_rotateRight_eq_mod x hk hi]

/-- Settles O46: the 128-bit step by the halves of the multiply-add, for NEXT_U64 and for the reference SEED. -/
theorem nextAndSeedOnPcg64 : Obligations.NextAndSeedOnPcg64 := by
  refine ⟨fun s v hv value => ?_, fun b h l xsl_rr => ?_, fun s arg v hv reference value => ?_⟩
  · rw [exec_nextU64, stepFn_pcg64 _ _ hv, stepPcg64, pcg64Update, lcg128Update_eq_halves, ← value]
    cases s.build.pcg64OutFrom with
    | new => rfl
    | old => rfl
  · have count : (h.extractLsb' 58 6).toNat = h.toNat / 2 ^ 58 := toNat_top_bits h (k := 58) (by decide)
    have count_lt : h.toNat / 2 ^ 58 < 64 := count ▸ (h.extractLsb' 58 6).isLt
    rw [pcg64Out, xsl_rr, pcg64XslRr, count, rotr64_eq_rotateRight _ count_lt]
  · rw [exec_seed, seedFn_pcg64 _ _ hv, seedPcg64, reference, pcg64Update, lcg128Update_eq_halves, ← value]
    rfl

end Sys2Proof.Machine
end

section
/-! PROOFS. Variants 5 to 9 (46_remaining.md): open algorithms complete whatever their functions are; the reference step and
seed of each variant. -/

namespace Sys2Proof.Machine

/-! ## Open algorithms -/

section OpenAlgorithm

variable {b : Build} {n id : Nat} (ha : b.algorithm = .other n id)
  (hv : b.variant = .msws ∨ b.variant = .romu ∨ b.variant = .lfib ∨ b.variant = .mwc ∨ b.variant = .sfc)

include ha hv

/-- `NW` of an open algorithm is the number the build names, save on variant 7, and only there are there cursors (R186). -/
theorem nw_nc_of_open (not_lfib : b.variant ≠ .lfib) : nw b = n ∧ nc b = 0 := by
  obtain hv | hv | hv | hv | hv := hv
  · simp [nw, nc, hv, ha, algorithmWords]
  · simp [nw, nc, hv, ha, algorithmWords]
  · exact absurd hv not_lfib
  · simp [nw, nc, hv, ha, algorithmWords]
  · simp [nw, nc, hv, ha, algorithmWords]

theorem seedFn_of_open (arg : Word) : seedFn b arg = seedOpen b id arg := by
  obtain hv | hv | hv | hv | hv := hv <;> simp only [seedFn, hv, seedChosen, ha]

theorem stepFn_of_open (k : Block) : stepFn b k = stepOpen b id k := by
  obtain hv | hv | hv | hv | hv := hv <;> simp only [stepFn, hv, stepChosen, ha]

end OpenAlgorithm

/-- Settles O47: both functions of an open algorithm leave a block of the shape of the build. -/
theorem openAlgorithmsComplete : Obligations.OpenAlgorithmsComplete := by
  intro s n id arg ha hv
  refine ⟨seedOpen s.build id arg, (stepOpen s.build id s.block).1, (stepOpen s.build id s.block).2,
    seedOpen_fits s.build id arg, stepOpen_fits s.build id s.block, fun not_lfib => ?_, ?_, ?_, ?_⟩
  · obtain ⟨words, cursors⟩ := nw_nc_of_open ha hv not_lfib
    obtain ⟨words_length, cursors_length⟩ := seedOpen_fits s.build id arg
    exact ⟨words_length.trans words, List.length_eq_zero_iff.mp (cursors_length.trans cursors)⟩
  · rw [exec_seed, seedFn_of_open ha hv]
    rfl
  · rw [exec_nextU64, stepFn_of_open ha hv]
    rfl
  · rw [exec_nextI63, stepFn_of_open ha hv]
    rfl

/-! ## Variant 5 -/

/-- Settles O48: the reference step with the library's rotate. -/
theorem referenceMswsStepAndSeed : Obligations.ReferenceMswsStepAndSeed := by
  intro s x1 w1 x2 w2 arg hv ha block
  rw [exec_nextU64, exec_seed, stepFn_msws_reference _ _ hv ha, seedFn_msws_reference _ _ hv ha, block]
  simp only [stepMsws, rotl64_eq_rotateLeft _ 32 (by decide)]
  exact ⟨rfl, rfl⟩

end Sys2Proof.Machine
end

section
/-! PROOFS. The reference of variant 6 (46_remaining.md R192 to R194): the step of each kind, and that only the all-zero state
steps to the all-zero state. -/

namespace Sys2Proof.Machine

/-! ## The step and the seed -/

theorem exec_nextU64_romu {s : State} (hv : s.build.variant = .romu) (ha : s.build.algorithm = .reference) :
    exec .nextU64 s =
      .next (complete (stepRomu s.build.romuKind s.block).1 (stepRomu s.build.romuKind s.block).2 s) := by
  rw [exec_nextU64, stepFn_romu_reference _ _ hv ha]

theorem exec_seed_romu {s : State} (hv : s.build.variant = .romu) (ha : s.build.algorithm = .reference) (arg : Word) :
    exec (.seed arg) s = .next (complete ⟨smFill arg (romuWords s.build.romuKind), []⟩ 0 s) := by
  rw [exec_seed, seedFn_romu_reference _ _ hv ha]
  rfl

/-- Settles O50: one clause per kind and command. -/
theorem referenceRomuStepByKind : Obligations.ReferenceRomuStepByKind := by
  intro s a b c d arg hv ha
  have rotate (x : Word) (k : Nat) (hk : k < 64) := rotl64_eq_rotateLeft x k hk
  rw [exec_nextU64_romu hv ha, exec_seed_romu hv ha]
  refine ⟨fun kind block => ?_, fun kind block => ?_, fun kind block => ?_, fun kind block => ?_, fun kind => ?_,
    fun kind => ?_, fun kind => ?_⟩
  · rw [kind, block, stepRomu, stepRomuQuad, rotate _ 52 (by decide), rotate _ 19 (by decide)]
    rfl
  · rw [kind, block, stepRomu, stepRomuTrio, rotate _ 12 (by decide), rotate _ 44 (by decide)]
    rfl
  · rw [kind, block, stepRomu, stepRomuDuo, rotate _ 36 (by decide), rotate _ 15 (by decide)]
    rfl
  · rw [kind, block, stepRomu, stepRomuDuoJr, rotate _ 27 (by decide)]
    rfl
  · rw [kind]
    rfl
  · rw [kind]
    rfl
  · obtain kind | kind := kind
    · rw [kind]
      rfl
    · rw [kind]
      rfl

/-! ## The all-zero state -/

theorem eq_zero_of_romuM_mul {z : Word} (h : romuM * z = 0) : z = 0 := by
  refine mul_const_injective (c := romuM) (inverse := 0x43d68ed20cd1fa63) (by decide) ?_
  exact (mul_comm z romuM).trans (h.trans (zero_mul romuM).symm)

/-- The old words one after the other: the multiplied one first, then each from a word of the new state in which only it is left. -/
theorem eq_zero_of_stepRomu_zero {kind : RomuKind} {k : Block} (words_length : k.words.length = romuWords kind)
    (zero : ∀ w ∈ (stepRomu kind k).1.words, w = 0) : ∀ w ∈ k.words, w = 0 := by
  obtain ⟨words, cursors⟩ := k
  cases kind with
  | quad =>
    obtain ⟨w, x, y, z, rfl⟩ := List.length_eq_four.mp words_length
    obtain ⟨hz, hw, hx, hy⟩ : romuM * z = 0 ∧ z + rotl64 w 52 = 0 ∧ y - x = 0 ∧ rotl64 (y + w) 19 = 0 := by
      simpa [stepRomu, stepRomuQuad, Block.word] using zero
    obtain rfl := eq_zero_of_romuM_mul hz
    obtain rfl := eq_zero_of_rotl64_eq_zero (by decide) ((zero_add _).symm.trans hw)
    obtain rfl := (add_zero y).symm.trans (eq_zero_of_rotl64_eq_zero (by decide) hy)
    obtain rfl := sub_eq_zero.mp hx
    simp
  | trio =>
    obtain ⟨x, y, z, rfl⟩ := List.length_eq_three.mp words_length
    obtain ⟨hz, hx, hy⟩ : romuM * z = 0 ∧ rotl64 (y - x) 12 = 0 ∧ rotl64 (z - y) 44 = 0 := by
      simpa [stepRomu, stepRomuTrio, Block.word] using zero
    obtain rfl := eq_zero_of_romuM_mul hz
    obtain rfl := sub_eq_zero.mp (eq_zero_of_rotl64_eq_zero (by decide) hy)
    obtain rfl := sub_eq_zero.mp (eq_zero_of_rotl64_eq_zero (by decide) hx)
    simp
  | duo =>
    obtain ⟨x, y, rfl⟩ := List.length_eq_two.mp words_length
    obtain ⟨hy, hx⟩ : romuM * y = 0 ∧ rotl64 y 36 + rotl64 y 15 - x = 0 := by
      simpa [stepRomu, stepRomuDuo, Block.word] using zero
    obtain rfl := eq_zero_of_romuM_mul hy
    obtain rfl := sub_eq_zero.mp hx
    simp
  | duoJr =>
    obtain ⟨x, y, rfl⟩ := List.length_eq_two.mp words_length
    obtain ⟨hy, hx⟩ : romuM * y = 0 ∧ rotl64 (y - x) 27 = 0 := by
      simpa [stepRomu, stepRomuDuoJr, Block.word] using zero
    obtain rfl := eq_zero_of_romuM_mul hy
    obtain rfl := sub_eq_zero.mp (eq_zero_of_rotl64_eq_zero (by decide) hx)
    simp

theorem stepRomu_out (kind : RomuKind) (k : Block) :
    (stepRomu kind k).2 = k.word (if kind = .quad then 1 else 0) := by
  cases kind <;> rfl

/-- Settles O49: the output by kind, the shape by `stepFn_fits`, and a new state that is all zero has an all-zero old one. -/
theorem referenceRomuOutputsTheOldWordAndStaysNonZero : Obligations.ReferenceRomuOutputsTheOldWordAndStaysNonZero := by
  intro s hv ha fits
  have words_length : s.block.words.length = romuWords s.build.romuKind := by
    obtain ⟨words_length, -⟩ := fits
    rwa [nw, hv, ha] at words_length
  have new_fits := stepFn_fits fits
  rw [stepFn_romu_reference _ _ hv ha] at new_fits
  refine ⟨_, new_fits, ?_, fun nonzero => ?_⟩
  · rw [exec_nextU64_romu hv ha, stepRomu_out]
    rfl
  · by_contra all_zero
    obtain ⟨w, mem, hw⟩ := nonzero
    refine hw (eq_zero_of_stepRomu_zero words_length (fun v hv => ?_) w mem)
    by_contra v_nonzero
    exact all_zero ⟨v, hv, v_nonzero⟩

end Sys2Proof.Machine
end

section
/-! PROOFS. The reference of variant 7 (46_remaining.md R196, R197): one entry of the ring is replaced, and the ring SEED
leaves is odd. -/

namespace Sys2Proof.Machine

/-! ## The words of a block -/

theorem word_of_set_same {k : Block} {i : Nat} (hi : i < k.words.length) (v : Word) (cursors : List Cursor) :
    (⟨k.words.set i v, cursors⟩ : Block).word i = v := by
  simp [Block.word, hi]

theorem word_of_set_ne (k : Block) {i n : Nat} (other : n ≠ i) (v : Word) (cursors : List Cursor) :
    (⟨k.words.set i v, cursors⟩ : Block).word n = k.word n := by
  simp [Block.word, List.getElem?_set_ne other.symm]

theorem word_mem {k : Block} {i : Nat} (hi : i < k.words.length) : k.word i ∈ k.words := by
  rw [Block.word, List.getD_eq_getElem _ _ hi]
  exact List.getElem_mem hi

/-- Bit 0 of a word is its parity. -/
theorem getLsbD_zero_iff_odd (x : Word) : x.getLsbD 0 = true ↔ Odd x.toNat := by
  rw [← BitVec.testBit_toNat, Nat.testBit_zero, decide_eq_true_iff, Nat.odd_iff]

theorem getLsbD_zero_mul {x y : Word} (hx : x.getLsbD 0 = true) (hy : y.getLsbD 0 = true) :
    (x * y).getLsbD 0 = true := by
  rw [getLsbD_zero_iff_odd] at hx hy ⊢
  rw [BitVec.toNat_mul, Nat.odd_iff, Nat.mod_mod_of_dvd _ (by decide), ← Nat.odd_iff]
  exact hx.mul hy

/-! ## The step -/

theorem allOdd_of_set {k : Block} {v : Word} (odd : allOdd k) (v_odd : v.getLsbD 0 = true) (i : Nat)
    (cursors : List Cursor) : allOdd ⟨k.words.set i v, cursors⟩ := by
  intro w mem
  obtain old | rfl := List.mem_or_eq_of_mem_set mem
  · exact odd w old
  · exact v_odd

/-- Settles O51: reading the ring after one entry was set, the product of two odd words being odd. -/
theorem referenceLfibReplacesOneEntry : Obligations.ReferenceLfibReplacesOneEntry := by
  intro s i j hv ha fits cursors
  have cursor0 : s.block.cursor 0 = i := by rw [Block.cursor, cursors]; rfl
  have cursor1 : s.block.cursor 1 = j := by rw [Block.cursor, cursors]; rfl
  have in_ring (c : Cursor) : c.val < s.block.words.length := by
    obtain ⟨words_length, -⟩ := fits
    rw [nw, hv] at words_length
    exact words_length ▸ c.isLt
  have new_fits := stepFn_fits fits
  rw [stepFn_lfib_reference _ _ hv ha] at new_fits
  have exec_eq := exec_nextU64 s
  rw [stepFn_lfib_reference _ _ hv ha] at exec_eq
  simp only [stepLfib, cursor0, cursor1] at new_fits exec_eq
  refine ⟨_, _, rfl, exec_eq, new_fits, word_of_set_same (in_ring i) _ _, fun n other => word_of_set_ne _ other _ _, rfl, rfl,
    fun mul => ?_, fun new_entry => lfibOutput_newEntry new_entry _⟩
  rw [lfibCombine_mul mul]
  refine ⟨rfl, fun odd => ?_⟩
  have product_odd : (s.block.word i.val * s.block.word j.val).getLsbD 0 = true :=
    getLsbD_zero_mul (odd _ (word_mem (in_ring i))) (odd _ (word_mem (in_ring j)))
  exact ⟨allOdd_of_set odd product_odd i.val _, product_odd⟩

/-- Settles O52: each word of the fill with bit 0 set. -/
theorem referenceLfibSeed : Obligations.ReferenceLfibSeed := by
  intro arg s hv ha
  have gamma : (0x9e3779b97f4a7c15 : Word) = smGamma := rfl
  refine ⟨_, exec_seed arg s, rfl, rfl, rfl, ?_, ?_, fun n hn => ?_⟩
  · rw [complete_block, seedFn_lfib_reference _ _ hv ha]
    simp [seedLfib]
  · rw [complete_block, seedFn_lfib_reference _ _ hv ha]
    rfl
  · rw [complete_block, seedFn_lfib_reference _ _ hv ha, seedLfib, smFill_eq_map, gamma]
    simp [Block.word, hn]

end Sys2Proof.Machine
end

section
/-! PROOFS. The references of variants 8 and 9 (46_remaining.md R200 to R204). -/

namespace Sys2Proof.Machine

/-! ## Variant 8 -/

/-- The new pair put together is the exact sum: the carry into the high word does not overflow it, the sum being below
`2 ^ 128`. -/
theorem stepMwc_exact (a x c : Word) :
    ((mul64x64 a x).1 + carryWord (add64c (mul64x64 a x).2 c).2).toNat * 2 ^ 64 + (add64c (mul64x64 a x).2 c).1.toNat =
      a.toNat * x.toNat + c.toNat := by
  have product := mul64x64_exact a x
  have sum := add64c_exact (mul64x64 a x).2 c
  have product_le : a.toNat * x.toNat ≤ (2 ^ 64 - 1) * (2 ^ 64 - 1) :=
    Nat.mul_le_mul (Nat.le_sub_one_of_lt a.isLt) (Nat.le_sub_one_of_lt x.isLt)
  have c_lt := c.isLt
  have no_overflow : (mul64x64 a x).1.toNat + (add64c (mul64x64 a x).2 c).2.toNat < 2 ^ 64 := by omega
  rw [BitVec.toNat_add, carryWord_toNat, Nat.mod_eq_of_lt no_overflow]
  linear_combination product + sum

/-- Settles O53: NEXT_U64 by the exact sum, SEED by the first word of the fill. -/
theorem referenceMwcSplitsTheExactSum : Obligations.ReferenceMwcSplitsTheExactSum := by
  refine ⟨fun s x c hv ha block => ⟨_, _, ?_, stepMwc_exact mwcA x c⟩, fun s arg hv ha => ?_⟩
  · rw [exec_nextU64, stepFn_mwc_reference _ _ hv ha, block]
    rfl
  · rw [exec_seed, seedFn_mwc_reference _ _ hv ha]
    rfl

/-! ## Variant 9 -/

/-- The warm-up of SEED (R204) is as many NEXT_U64. -/
theorem sfcDiscard_eq_iterate {b : Build} (hv : b.variant = .sfc) (ha : b.algorithm = .reference) (n : Nat) (k : Block) :
    sfcDiscard n k = (nextBlock b)^[n] k := by
  induction n generalizing k with
  | zero => rfl
  | succ n ih => rw [sfcDiscard, ih, Function.iterate_succ_apply, nextBlock, stepFn_sfc_reference _ _ hv ha]

/-- Each step counts one in word 3. -/
theorem sfcDiscard_word3 (n : Nat) (k : Block) : (sfcDiscard n k).word 3 = k.word 3 + BitVec.ofNat 64 n := by
  induction n generalizing k with
  | zero => exact (BitVec.add_zero _).symm
  | succ n ih =>
    have counted : (stepSfc k).1.word 3 = k.word 3 + 1 := rfl
    rw [sfcDiscard, ih, counted, BitVec.add_assoc, Nat.add_comm n 1, BitVec.ofNat_add]
    rfl

/-- Settles O54: the reference step with the library's rotate; SEED is a run of twelve steps. -/
theorem referenceSfcStepAndSeed : Obligations.ReferenceSfcStepAndSeed := by
  refine ⟨fun s a b c n hv ha block => ?_, fun s arg hv ha => ?_⟩
  · rw [exec_nextU64, stepFn_sfc_reference _ _ hv ha, block]
    simp only [stepSfc, rotl64_eq_rotateLeft _ 24 (by decide)]
    rfl
  · obtain ⟨t, run, -, block⟩ := execAll_replicate_nextU64 12 { s with block := ⟨[arg, arg, arg, 1], []⟩ }
    have seeded : seedFn s.build arg = sfcDiscard 12 ⟨[arg, arg, arg, 1], []⟩ := seedFn_sfc_reference _ _ hv ha
    refine ⟨t, _, run, exec_seed arg s, ?_, rfl, rfl, rfl, ?_⟩
    · rw [complete_block, seeded, sfcDiscard_eq_iterate hv ha, block]
    · rw [complete_block, seeded, sfcDiscard_word3]
      rfl

end Sys2Proof.Machine
end

section
/-! PROOFS. What a seed establishes on each variant (10_state.md R26, 40_common_interface.md R102 c). -/

namespace Sys2Proof.Machine

/-- One case per variant with an invariant: a literal odd word, a fill that is not all zero, words with bit 0 set, carry 1. -/
theorem seedFn_seedInvariant (b : Build) (arg : Word) : seedInvariant b (seedFn b arg) := by
  rw [seedInvariant]
  cases hv : b.variant with
  | splitmix | pcg32 | pcg64 | msws | sfc => trivial
  | lcg128 =>
    intro mode
    rw [seedFn_lcg128 _ _ hv, seedLcg128, mode]
    exact (by decide : (1 : Word).getLsbD 0 = true)
  | rsx256 =>
    rw [seedFn_rsx256 _ _ hv]
    exact smFill_has_nonzero arg (by decide)
  | romu =>
    intro ha
    rw [seedFn_romu_reference _ _ hv ha]
    refine smFill_has_nonzero arg ?_
    cases b.romuKind <;> decide
  | lfib =>
    intro ha w mem
    rw [seedFn_lfib_reference _ _ hv ha, seedLfib] at mem
    obtain ⟨v, -, rfl⟩ := List.mem_map.mp mem
    simp
  | mwc =>
    intro ha
    rw [seedFn_mwc_reference _ _ hv ha]
    exact (by decide : 0 < (1 : Word).toNat ∧ (1 : Word).toNat < mwcA.toNat - 1)

/-- Settles O21: SEED completes with the seed function's block. -/
theorem seedEstablishesTheSeedInvariant : Obligations.SeedEstablishesTheSeedInvariant :=
  fun arg s => ⟨_, exec_seed arg s, seedFn_fits s.build arg, seedFn_seedInvariant s.build arg⟩

end Sys2Proof.Machine
end

section
/-! PROOFS. Runs from reset: the variants whose reset state returns zero for ever (10_state.md R42), and the golden vectors of the
source (95_test_vectors.md S1 to S3). -/

namespace Sys2Proof.Machine

/-! ## All-zero blocks -/

/-- Every word of the block reads zero. -/
def ZeroWords (k : Block) : Prop := ∀ i, k.word i = 0

theorem zeroWords_replicate (n : Nat) (cursors : List Cursor) : ZeroWords ⟨List.replicate n 0, cursors⟩ :=
  fun i => List.getElem?_getD_replicate_default_eq _ _ i

theorem zeroWords_set {k : Block} (zero : ZeroWords k) (i : Nat) (cursors : List Cursor) :
    ZeroWords ⟨k.words.set i 0, cursors⟩ := by
  intro n
  by_cases hi : i < k.words.length
  · by_cases same : n = i
    · rw [same, word_of_set_same hi]
    · rw [word_of_set_ne k same, zero]
  · rw [List.set_eq_of_length_le (Nat.le_of_not_lt hi)]
    exact zero n

/-- The builds of R42 whose all-zero block steps to an all-zero block with output 0. -/
def Degenerate (b : Build) : Prop :=
  b.variant = .rsx256 ∨
    (b.algorithm = .reference ∧ (b.variant = .romu ∨ b.variant = .mwc ∨
      (b.variant = .lfib ∧ b.lfibOp = .mul ∧ b.lfibOut = .newEntry)))

theorem stepRomu_of_zeroWords (kind : RomuKind) {k : Block} (zero : ZeroWords k) :
    stepRomu kind k = (⟨List.replicate (romuWords kind) 0, []⟩, 0) := by
  cases kind with
  | quad =>
    rw [stepRomu, stepRomuQuad, zero 0, zero 1, zero 2, zero 3]
    decide
  | trio =>
    rw [stepRomu, stepRomuTrio, zero 0, zero 1, zero 2]
    decide
  | duo =>
    rw [stepRomu, stepRomuDuo, zero 0, zero 1]
    decide
  | duoJr =>
    rw [stepRomu, stepRomuDuoJr, zero 0, zero 1]
    decide

theorem stepMwc_of_zeroWords {k : Block} (zero : ZeroWords k) : stepMwc k = (⟨List.replicate 2 0, []⟩, 0) := by
  rw [stepMwc, zero 0, zero 1]
  decide

theorem stepRsx256_of_zeroWords {k : Block} (zero : ZeroWords k) : stepRsx256 k = (⟨List.replicate 4 0, []⟩, 0) := by
  rw [stepRsx256, rsxOfBlock, zero 0, zero 1, zero 2, zero 3]
  decide

/-- A degenerate build never leaves the all-zero words; on variant 7 the entry set is the product of two of them. -/
theorem stepFn_of_zeroWords {b : Build} {k : Block} (degenerate : Degenerate b) (zero : ZeroWords k) :
    (stepFn b k).2 = 0 ∧ ZeroWords (stepFn b k).1 := by
  obtain hv | ⟨ha, hv | hv | ⟨hv, mul, new_entry⟩⟩ := degenerate
  · rw [stepFn_rsx256 _ _ hv, stepRsx256_of_zeroWords zero]
    exact ⟨rfl, zeroWords_replicate 4 []⟩
  · rw [stepFn_romu_reference _ _ hv ha, stepRomu_of_zeroWords _ zero]
    exact ⟨rfl, zeroWords_replicate _ []⟩
  · rw [stepFn_mwc_reference _ _ hv ha, stepMwc_of_zeroWords zero]
    exact ⟨rfl, zeroWords_replicate 2 []⟩
  · rw [stepFn_lfib_reference _ _ hv ha, stepLfib, lfibCombine_mul mul, lfibOutput_newEntry new_entry, zero, zero]
    exact ⟨rfl, zeroWords_set zero _ _⟩

theorem iterate_nextBlock_zeroWords {b : Build} {k : Block} (degenerate : Degenerate b) (zero : ZeroWords k) (n : Nat) :
    ZeroWords ((nextBlock b)^[n] k) := by
  induction n with
  | zero => exact zero
  | succ n ih =>
    rw [Function.iterate_succ_apply']
    exact (stepFn_of_zeroWords degenerate ih).2

/-- Settles O55: the block before the last step is all zero, so the last output is zero and the block after it all zero. -/
theorem degenerateResetStatesReturnZeroForEver : Obligations.DegenerateResetStatesReturnZeroForEver := by
  intro b n degenerate
  have zero := iterate_nextBlock_zeroWords (k := resetBlock b) degenerate (resetBlock_word b)
  refine ⟨_, execAll_replicate_nextU64_succ n (State.resetOf b), ?_, zero (n + 1)⟩
  exact congrArg okResponse (stepFn_of_zeroWords degenerate (zero n)).1

/-! ## The golden vectors -/

theorem golden_rsx256 {b : Build} (hv : b.variant = .rsx256) :
    ∃ t, execAll (loadsFrom 0 [1, 2, 3, 4] ++ [.nextU64]) (State.resetOf b) = .next t ∧ t.rsp = okResponse 0x2d00 := by
  have words : nw b = 4 := by rw [nw, hv]
  obtain ⟨t, ht, build, -, -, loaded, -⟩ :=
    execAll_loadsFrom [1, 2, 3, 4] (idx := 0) (s := State.resetOf b) (resetBlock_fits b) (by simp [nidx, words])
  rw [resetOf_build] at build loaded
  rw [build] at loaded
  have word (j : Nat) (hj : j < 4) : t.block.word j = [1, 2, 3, 4].getD j 0 := by
    have h := loaded j hj
    rwa [Nat.zero_add, readIndex_of_lt_nw _ (words ▸ hj), loadedValue, if_pos (words ▸ hj)] at h
  refine ⟨_, (execAll_append ht _).trans (execAll_cons (exec_nextU64 t) []), ?_⟩
  rw [complete_rsp, build, stepFn_rsx256 _ _ hv, stepRsx256, rsxOfBlock, word 0 (by decide), word 1 (by decide), word 2 (by decide),
    word 3 (by decide)]
  decide

theorem golden_pcg32 {b : Build} (hv : b.variant = .pcg32) : ∃ t₁ t₂ t₃,
    exec .nextU32 (State.resetOf b) = .next t₁ ∧ t₁.rsp = okResponse 0x00000000 ∧
    exec .nextU32 t₁ = .next t₂ ∧ t₂.rsp = okResponse 0x602bf3fd ∧
    exec .nextU32 t₂ = .next t₃ ∧ t₃.rsp = okResponse 0xe823a24e := by
  have next {s : State} (build : s.build = b) := exec_nextU32_of_pcg32 (s := s) (build ▸ hv)
  have reset_step : stepPcg32Half (resetBlock b) = stepPcg32Half (blockOfWord 0) := by
    rw [stepPcg32Half, resetBlock_word]
    rfl
  refine ⟨_, _, _, next rfl, ?_, next rfl, ?_, next rfl, ?_⟩
  all_goals
    simp only [complete_block, complete_rsp, resetOf_block, reset_step]
    decide

theorem golden_splitmix {b : Build} (hv : b.variant = .splitmix) : ∃ t₀ t₁ t₂ t₃,
    exec (.seed 0) (State.resetOf b) = .next t₀ ∧
    exec .nextU64 t₀ = .next t₁ ∧ t₁.rsp = okResponse 0xe220a8397b1dcdaf ∧
    exec .nextU64 t₁ = .next t₂ ∧ t₂.rsp = okResponse 0x6e789e6aa1b965f4 ∧
    exec .nextU64 t₂ = .next t₃ ∧ t₃.rsp = okResponse 0x06c45d188009454f := by
  have seeded : seedFn b 0 = ⟨[0], []⟩ := seedFn_splitmix b 0 hv
  refine ⟨_, _, _, _, exec_seed 0 _, exec_nextU64 _, ?_, exec_nextU64 _, ?_, exec_nextU64 _, ?_⟩
  all_goals
    simp only [complete_build, complete_block, complete_rsp, resetOf_build, seeded, stepFn_splitmix_word hv]
    decide

/-- Settles O56: one lemma per vector. -/
theorem goldenVectorsOfTheSource : Obligations.GoldenVectorsOfTheSource :=
  ⟨fun _ hv => golden_rsx256 hv, fun _ hv => golden_pcg32 hv, fun _ hv => golden_splitmix hv⟩

end Sys2Proof.Machine
end
